-- ==== Sys2Proof/Word.lean ====
section
/-! DEFINITION. The word types of the block (spec 00_scope.md R5, R6, R7): bytes, register addresses, signal-strength
measurements and the millisecond time base. -/

namespace Sys2Proof

/-- A byte, bit 7 the most significant (R7). -/
abbrev Byte := BitVec 8

/-- An address of the RegisterPort space. R36 states no width, so an address is a natural number (log entry 22). -/
abbrev Addr := Nat

/-- A signal-strength measurement: signed 16 bits (R6, R112). -/
abbrev Rssi := BitVec 16

/-- The 32-bit millisecond time base `Now()` (R6, R151). -/
abbrev Millis := BitVec 32

end Sys2Proof
end

