-- ==== Sys2Proof/Syntax.lean ====
section
/-! DEFINITION. The syntax: radio modes (R14), the instructions, one constructor per row of the opcode table, and the
forms in which a request reaches the block (R70, R71, R60, R68). -/

namespace Sys2Proof

/-- `RadioMode`, "exactly one value live at a time" (R14). -/
inductive RadioMode where
  | sleep
  | standby
  | frequencySynthesis
  | receive
  | transmit
deriving DecidableEq, Repr

/-- One constructor per row of the opcode table: fourteen commands and two unassigned opcodes (R71), the ready-line
event (R100), the four wire rows (R60, R90, R91, R93) and the four control-byte kinds (R68). -/
inductive Instr where
  /-- INITIALIZE(band, nodeId, networkId), R130. -/
  | initBlock (band nodeId networkId : Byte)
  /-- SET_ADDRESS(addr), R131. -/
  | setAddress (addr : Byte)
  /-- SET_POWER_LEVEL(level), R132; a level above 31 is ill-formed (R76). -/
  | setPowerLevel (level : Byte)
  /-- PROMISCUOUS(on), R133. -/
  | promiscuous (on : Bool)
  /-- SEND(target, payload, requestAck), R115. -/
  | send (target : Byte) (payload : List Byte) (requestAck : Bool)
  /-- SEND_WITH_RETRY(target, payload, retries, timeoutMs), R120. -/
  | sendWithRetry (target : Byte) (payload : List Byte) (retries : Byte) (timeoutMs : BitVec 16)
  /-- RECEIVE_DONE(), R103. -/
  | receiveDone
  /-- ACK_RECEIVED(from), R121. -/
  | ackReceived (fromAddress : Byte)
  /-- SEND_ACK(payload), R122. -/
  | sendAck (payload : List Byte)
  /-- SET_ENCRYPTION_KEY(key or none), R134; a key of another length than 16 is ill-formed (R76). -/
  | setEncryptionKey (key : Option (List Byte))
  /-- SET_MODE(mode), R80; the codes 5, 6 and 7 are unrecognized targets (R72, R82). -/
  | setMode (mode : BitVec 3)
  /-- CAN_SEND(), R110. -/
  | canSend
  /-- RECEIVE_BEGIN(), R102. -/
  | receiveBegin
  /-- SEND_FRAME(target, payload, requestAck, sendAck), R116; both flags true is ill-formed (R76). -/
  | sendFrame (target : Byte) (payload : List Byte) (requestAck sendAck : Bool)
  /-- The unassigned opcode 0xE, R76. -/
  | cmdUnassignedE
  /-- The unassigned opcode 0xF, R76. -/
  | cmdUnassignedF
  /-- The ready-line event, R100, R145. -/
  | onReadyEdge
  /-- FRAME_HEADER, the first four FIFO bytes of a frame, R60. -/
  | frameHeader (length target sender : Byte) (ackReply ackRequest : Bool)
  /-- ENCODE: the codec's Encode on a target, a control byte and a payload, R90. -/
  | encode (target control : Byte) (payload : List Byte)
  /-- DECODE: the codec's Decode on the bytes a FIFO would yield, oldest first, R91. -/
  | decode (bytes : List Byte)
  /-- FILTER: the address filter on a received target byte, R93. -/
  | filter (target : Byte)
  /-- DATA: a control byte with bits 7 and 6 both 0; `low` is its bits 5:0, R68. -/
  | ctlData (low : BitVec 6)
  /-- DATA_ACKREQ: bits 7:6 are 01, R68. -/
  | ctlDataAckreq (low : BitVec 6)
  /-- ACK: bits 7:6 are 10, R68. -/
  | ctlAck (low : BitVec 6)
  /-- ACK_ACKREQ: bits 7:6 are 11, R68. -/
  | ctlAckAckreq (low : BitVec 6)
deriving DecidableEq, Repr

/-- The operands of a command record: "the named, typed values of rule R71" (R70). A command reads the fields R71
names for it and ignores the others. -/
structure Operands where
  band : Byte := 0
  nodeId : Byte := 0
  networkId : Byte := 0
  addr : Byte := 0
  level : Byte := 0
  on : Bool := false
  target : Byte := 0
  payload : List Byte := []
  requestAck : Bool := false
  sendAck : Bool := false
  retries : Byte := 0
  timeoutMs : BitVec 16 := 0
  fromAddress : Byte := 0
  key : Option (List Byte) := none
  mode : BitVec 3 := 0
deriving DecidableEq, Repr

/-- The forms in which something reaches the block, one per value of the table's "format" column, with the wire rows
told apart by the codec function they name (log entry 9). -/
inductive Request where
  /-- CMD: the host's record `(op[3:0], operands)` (R70). -/
  | command (op : BitVec 4) (operands : Operands)
  /-- EVENT: the one-bit interrupt request of the ready line. -/
  | event (request : BitVec 1)
  /-- WIRE, FRAME_HEADER: the four header bytes as one word, first FIFO byte in bits 31:24. -/
  | header (word : BitVec 32)
  /-- WIRE, ENCODE. -/
  | encode (target control : Byte) (payload : List Byte)
  /-- WIRE, DECODE. -/
  | decode (bytes : List Byte)
  /-- WIRE, FILTER. -/
  | filter (target : Byte)
  /-- CTL: a control byte. -/
  | control (byte : Byte)
deriving DecidableEq, Repr

end Sys2Proof
end

