-- ==== Sys2Proof/Config.lean ====
section
/-! DEFINITION. The configuration record CFG (R6, R52), its default from spec 93_implementation_defined.md G1 to G3, and
the free values, constants without a body, that stand for what the environment answers. -/

namespace Sys2Proof

/-- `CFG.regmap`: every RegisterPort address, mask, bit and code the rules name (R25 to R33, R52). -/
structure RegMap where
  aFifo : Addr
  aOpmode : Addr
  aIrq1 : Addr
  aIrq2 : Addr
  aDiomap : Addr
  aPktcfg : Addr
  aCipher : Addr
  aKey0 : Addr
  aPalevel : Addr
  mMode : Byte
  mPalevel : Byte
  bModeReady : Byte
  bPayloadReady : Byte
  bRestartRx : Byte
  bCipherOn : Byte
  vSleep : Byte
  vStandby : Byte
  vFrequencySynthesis : Byte
  vReceive : Byte
  vTransmit : Byte
  vDioRx : Byte
  vDioTx : Byte
deriving DecidableEq, Repr

/-- `V_MODE(m)`, the device's code of a radio mode (R26). -/
def RegMap.vMode (r : RegMap) : RadioMode → Byte
  | .sleep => r.vSleep
  | .standby => r.vStandby
  | .frequencySynthesis => r.vFrequencySynthesis
  | .receive => r.vReceive
  | .transmit => r.vTransmit

/-- CFG (R6). `PA_TUNE : Bool -> List (address, byte)` is held as its two lists. -/
structure Cfg where
  boosted : Bool
  csmaLimit : Rssi
  regmap : RegMap
  paTuneOn : List (Addr × Byte)
  paTuneOff : List (Addr × Byte)
deriving DecidableEq, Repr

/-- `CFG.PA_TUNE(on)` (R6, R33). -/
def Cfg.paTune (c : Cfg) (on : Bool) : List (Addr × Byte) :=
  if on then c.paTuneOn else c.paTuneOff

/-- A mask with exactly one bit set (R27, R52). -/
def oneBit (b : Byte) : Bool :=
  [0x01#8, 0x02#8, 0x04#8, 0x08#8, 0x10#8, 0x20#8, 0x40#8, 0x80#8].contains b

/-- The addresses of the map other than the FIFO's and the key block's. -/
def RegMap.plainAddresses (r : RegMap) : List Addr :=
  [r.aOpmode, r.aIrq1, r.aIrq2, r.aDiomap, r.aPktcfg, r.aCipher, r.aPalevel]

/-- The sixteen addresses of the key register block (R32). -/
def RegMap.keyAddresses (r : RegMap) : List Addr :=
  (List.range 16).map (r.aKey0 + ·)

/-- The five mode codes (R26). -/
def RegMap.modeCodes (r : RegMap) : List Byte :=
  [r.vSleep, r.vStandby, r.vFrequencySynthesis, r.vReceive, r.vTransmit]

/-- The constraints R52 puts on the registers, masks, bits and codes of the map. -/
def RegMap.wf (r : RegMap) : Bool :=
  !(r.plainAddresses ++ r.keyAddresses).contains r.aFifo
  && r.plainAddresses.all (fun a => !r.keyAddresses.contains a)
  && r.modeCodes.Nodup
  && r.modeCodes.all (fun v => v &&& ~~~r.mMode == 0)
  && oneBit r.bModeReady && oneBit r.bPayloadReady && oneBit r.bRestartRx && oneBit r.bCipherOn
  && (r.aCipher != r.aPktcfg || r.bCipherOn != r.bRestartRx)

/-- The addresses of `CFG.PA_TUNE`, whether it is on or off: R52 counts them in the map. -/
def Cfg.tuneAddresses (c : Cfg) : List Addr :=
  (c.paTuneOn ++ c.paTuneOff).map Prod.fst

/-- The constraints R52 puts on the whole map, the tuning addresses among "every other address": none of them is the
FIFO's or lies in the key block. No rule of the block tests them: a claim that needs them takes them as a premise
(log entry 22). -/
def Cfg.wf (c : Cfg) : Bool :=
  c.regmap.wf && c.tuneAddresses.all (fun a => a != c.regmap.aFifo && !c.regmap.keyAddresses.contains a)

/-- G1: the register map of a real RFM69 device. PRESUMED: the spec marks it general knowledge (log entry 2). -/
def RegMap.family : RegMap where
  aFifo := 0x00
  aOpmode := 0x01
  aIrq1 := 0x27
  aIrq2 := 0x28
  aDiomap := 0x25
  aPktcfg := 0x3D
  aCipher := 0x3D
  aKey0 := 0x3E
  aPalevel := 0x11
  mMode := 0x1C
  mPalevel := 0x1F
  bModeReady := 0x80
  bPayloadReady := 0x04
  bRestartRx := 0x04
  bCipherOn := 0x01
  vSleep := 0x00
  vStandby := 0x04
  vFrequencySynthesis := 0x08
  vReceive := 0x10
  vTransmit := 0x0C
  vDioRx := 0x40
  vDioTx := 0x00

/-- G1, G2, G3 with `boosted = false`. PRESUMED (log entry 2). -/
def Cfg.family : Cfg where
  boosted := false
  csmaLimit := -90
  regmap := RegMap.family
  paTuneOn := [(0x5A, 0x5D), (0x5C, 0x7C)]
  paTuneOff := [(0x5A, 0x55), (0x5C, 0x70)]

/-- The answer of a `RegRead` the environment has not listed: any value (R40, U17; log entry 3). The argument counts
the reads made so far. -/
opaque Config.freeRead : Nat → Byte

/-- A `ReadRssi()` draw the environment has not listed: any value in signed 16 bits (U14; log entry 3). -/
opaque Config.freeRssi : Nat → Rssi

/-- A `Now()` draw the environment has not listed (R151, U17; log entries 3 and 17). -/
opaque Config.freeNow : Nat → Millis

/-- A `ReadyLine()` level the environment has not listed (R34, U17; log entry 3). -/
opaque Config.freeLine : Nat → Bool

/-- A `ConfigBlob` result the environment has not listed: any value (R130, U16; log entry 3). -/
opaque Config.freeBlob : Byte → Byte → Byte → Nat → Bool

/-- Byte `i` of a byte list that has fewer bytes, as DECODE takes it: "the missing bytes are whatever the device
answers" (R91 corner case (iv); log entry 16). -/
opaque Config.missingByte : List Byte → Nat → Byte

end Sys2Proof
end

