-- ==== Sys2Proof/WellFormed.lean ====
section
/-! DEFINITION. Well-formed instructions: the operand ranges whose violation R76 refuses. -/

namespace Sys2Proof

/-- SET_POWER_LEVEL's operand lies in 0..31 (R71, R76). -/
def levelInRange (level : Byte) : Bool :=
  level.toNat ≤ 31

/-- SET_ENCRYPTION_KEY's operand is absent or has 16 bytes: "No key-length other than 16 is supported" (R134, R76). -/
def keyLengthOk (key : Option (List Byte)) : Bool :=
  match key with
  | none => true
  | some k => k.length == 16

/-- SEND_FRAME's two request flags are not both set (R76, R116 line 1). -/
def ackFlagsOk (requestAck sendAck : Bool) : Bool :=
  !(requestAck && sendAck)

/-- An instruction whose operands R76 does not refuse. -/
def Instr.wellFormed : Instr → Bool
  | .initBlock _ _ _ => true
  | .setAddress _ => true
  | .setPowerLevel level => levelInRange level
  | .promiscuous _ => true
  | .send _ _ _ => true
  | .sendWithRetry _ _ _ _ => true
  | .receiveDone => true
  | .ackReceived _ => true
  | .sendAck _ => true
  | .setEncryptionKey key => keyLengthOk key
  | .setMode _ => true
  | .canSend => true
  | .receiveBegin => true
  | .sendFrame _ _ ra sa => ackFlagsOk ra sa
  | .cmdUnassignedE => true
  | .cmdUnassignedF => true
  | .onReadyEdge => true
  | .frameHeader _ _ _ _ _ => true
  | .encode _ _ _ => true
  | .decode _ => true
  | .filter _ => true
  | .ctlData _ => true
  | .ctlDataAckreq _ => true
  | .ctlAck _ => true
  | .ctlAckAckreq _ => true

end Sys2Proof
end

