-- ==== Sys2Proof/Decode.lean ====
section
/-! DEFINITION. Decoding a request into an instruction (R70 to R72, R60, R68), total, rejecting by name; the encoder
beside it; and the host's numbering of the opcode table's words. -/

namespace Sys2Proof

/-- Why a request is no instruction. -/
inductive DecodeError where
  /-- EVENT with the request bit 0: the ready line asks for nothing, so there is no event (R145). Safe. -/
  | noInterruptRequest
deriving DecidableEq, Repr

/-- The command of an opcode, R71's table; 0xE and 0xF are unassigned (R76). -/
def decodeCommand (op : BitVec 4) (o : Operands) : Instr :=
  match op.toNat with
  | 0x0 => .initBlock o.band o.nodeId o.networkId
  | 0x1 => .setAddress o.addr
  | 0x2 => .setPowerLevel o.level
  | 0x3 => .promiscuous o.on
  | 0x4 => .send o.target o.payload o.requestAck
  | 0x5 => .sendWithRetry o.target o.payload o.retries o.timeoutMs
  | 0x6 => .receiveDone
  | 0x7 => .ackReceived o.fromAddress
  | 0x8 => .sendAck o.payload
  | 0x9 => .setEncryptionKey o.key
  | 0xA => .setMode o.mode
  | 0xB => .canSend
  | 0xC => .receiveBegin
  | 0xD => .sendFrame o.target o.payload o.requestAck o.sendAck
  | 0xE => .cmdUnassignedE
  | _ => .cmdUnassignedF

/-- The header word of R60, `LLLLLLLLTTTTTTTTSSSSSSSSRQ000000`; bits 5:0 are "ignored on decode" (R69 (c)). -/
def decodeHeader (w : BitVec 32) : Instr :=
  .frameHeader (w.extractLsb' 24 8) (w.extractLsb' 16 8) (w.extractLsb' 8 8) (w.getLsbD 7) (w.getLsbD 6)

/-- The kind of a control byte by its bits 7 and 6 (R68). -/
def decodeControl (c : Byte) : Instr :=
  match c.getLsbD 7, c.getLsbD 6 with
  | false, false => .ctlData (c.extractLsb' 0 6)
  | false, true => .ctlDataAckreq (c.extractLsb' 0 6)
  | true, false => .ctlAck (c.extractLsb' 0 6)
  | true, true => .ctlAckAckreq (c.extractLsb' 0 6)

/-- The instruction a request stands for. -/
def decode : Request → Except DecodeError Instr
  | .command op operands => .ok (decodeCommand op operands)
  | .event request => if request = 1#1 then .ok .onReadyEdge else .error .noInterruptRequest
  | .header word => .ok (decodeHeader word)
  | .encode target control payload => .ok (.encode target control payload)
  | .decode bytes => .ok (.decode bytes)
  | .filter target => .ok (.filter target)
  | .control byte => .ok (decodeControl byte)

/-- The header word of R60, bits 5:0 zero as "the block's own operations encode" it. -/
def encodeHeader (length target sender : Byte) (ackReply ackRequest : Bool) : BitVec 32 :=
  length ++ target ++ sender ++ BitVec.ofBool ackReply ++ BitVec.ofBool ackRequest ++ 0#6

/-- A control byte from its two flag bits and its low six bits (R68). -/
def encodeControl (kind : BitVec 2) (low : BitVec 6) : Byte :=
  kind ++ low

/-- The request that presents an instruction: opcodes of R71, the header of R60, the kinds of R68. -/
def encode : Instr → Request
  | .initBlock band nodeId networkId =>
      .command 0x0#4 { band := band, nodeId := nodeId, networkId := networkId }
  | .setAddress addr => .command 0x1#4 { addr := addr }
  | .setPowerLevel level => .command 0x2#4 { level := level }
  | .promiscuous on => .command 0x3#4 { on := on }
  | .send target payload requestAck =>
      .command 0x4#4 { target := target, payload := payload, requestAck := requestAck }
  | .sendWithRetry target payload retries timeoutMs =>
      .command 0x5#4 { target := target, payload := payload, retries := retries, timeoutMs := timeoutMs }
  | .receiveDone => .command 0x6#4 {}
  | .ackReceived fromAddress => .command 0x7#4 { fromAddress := fromAddress }
  | .sendAck payload => .command 0x8#4 { payload := payload }
  | .setEncryptionKey key => .command 0x9#4 { key := key }
  | .setMode mode => .command 0xA#4 { mode := mode }
  | .canSend => .command 0xB#4 {}
  | .receiveBegin => .command 0xC#4 {}
  | .sendFrame target payload requestAck sendAck =>
      .command 0xD#4 { target := target, payload := payload, requestAck := requestAck, sendAck := sendAck }
  | .cmdUnassignedE => .command 0xE#4 {}
  | .cmdUnassignedF => .command 0xF#4 {}
  | .onReadyEdge => .event 1#1
  | .frameHeader length target sender ackReply ackRequest =>
      .header (encodeHeader length target sender ackReply ackRequest)
  | .encode target control payload => .encode target control payload
  | .decode bytes => .decode bytes
  | .filter target => .filter target
  | .ctlData low => .control (encodeControl 0b00#2 low)
  | .ctlDataAckreq low => .control (encodeControl 0b01#2 low)
  | .ctlAck low => .control (encodeControl 0b10#2 low)
  | .ctlAckAckreq low => .control (encodeControl 0b11#2 low)

/-- The request a word of the opcode table stands for, operands all zero or empty. The table's formats share words, so
a word of up to eight bits below 0x10 is a command's opcode, any other is a control byte, and a wider word is a frame
header (log entry 9). -/
def tableRequest (nbits w : Nat) : Request :=
  if 8 < nbits then .header (BitVec.ofNat 32 w)
  else if w < 16 then .command (BitVec.ofNat 4 w) {}
  else .control (BitVec.ofNat 8 w)

/-- The instruction the decoder reads from a word of the opcode table. -/
def decodeTableWord (nbits w : Nat) : Option Instr :=
  match decode (tableRequest nbits w) with
  | .ok i => some i
  | .error _ => none

end Sys2Proof
end

