-- ==== Sys2Proof/Machine/State.lean ====
section
/-! DEFINITION. The state: the record S of R11, the positions of the two contexts (R10, R13), the host's and the
environment's side, the reasons a step can stop, and the state after reset (R37, R160). -/

namespace Sys2Proof.Machine

/-- The two execution contexts of the block (R10 (a), (b), R150). -/
inductive Context where
  | fg
  | irq
deriving DecidableEq, Repr

/-- One port transaction: a `RegRead` with its answer or a `RegWrite` (R40, R41). -/
inductive Transfer where
  | read (addr : Addr) (answer : Byte)
  | write (addr : Addr) (value : Byte)
deriving DecidableEq, Repr

/-- An entry of the event history of R56: a transaction tagged with the agent that made it. -/
structure BusEvent where
  context : Context
  transfer : Transfer
deriving DecidableEq, Repr

/-- The slot payload buffer (R24 (a), R36 (b)): index and byte, indices rising, an unlisted index holds no value
(log entry 6). -/
abbrev Memory := List Host.Cell

/-- `ReceivedFrameSlot` (R11, R17). -/
structure Slot where
  pendingLength : Byte
  payloadLength : Byte
  targetAddress : Byte
  senderAddress : Byte
  ackRequest : Bool
  ackReply : Bool
  payload : Memory
  rssi : Rssi
deriving DecidableEq, Repr

/-- What one micro-step of a clearing zeroes: one of the scalar fields (R102 line 1, R135, R100 lines 5 and 8), or the
two lengths, which `ReceiveSlotClear()` zeroes together (R18; log entry 15). -/
inductive SlotField where
  | lengths
  | pendingLength
  | targetAddress
  | senderAddress
  | ackRequest
  | ackReply
  | rssi
deriving DecidableEq, Repr

/-- `RetrySession`, with `attemptsRemaining` 9 bits wide (R22, C4), and the payload every attempt sends. -/
structure RetrySession where
  attemptsRemaining : BitVec 9
  perAttemptTimeout : BitVec 16
  targetAddress : Byte
  payload : List Byte
deriving DecidableEq, Repr

/-- A position inside an operation: one constructor per kind of pseudocode line, with the local variables the line
needs. A context's list of these is what "stands in for a program counter" (R13); each is one micro-step of R146. -/
inductive Micro where
  /-- `RegWrite(a, v)`. -/
  | regWrite (a : Addr) (v : Byte)
  /-- `old <- RegRead(a)`, to be followed by `RegWrite(a, (old & keep) | set)` (R75 (f)). -/
  | modify (a : Addr) (keep set : Byte)
  /-- `c <- EnterCritical()` (R47). -/
  | enterCritical
  /-- `ExitCritical(c)` (R47). -/
  | exitCritical
  /-- `SetMode(t)` lines 1 and 2 (R80). -/
  | setMode (t : BitVec 3)
  /-- `SetMode` line 9: the wait runs only when the origin mode is Sleep (R80). -/
  | waitIfSleep
  /-- One iteration of `SetMode` line 10 (R80, R84). -/
  | waitModeReady
  /-- `SetMode` line 11 (R80). -/
  | storeMode (m : RadioMode)
  /-- `ok <- ConfigBlob(band, nodeId, networkId)` (R130 line 1). -/
  | configBlob (band nodeId networkId : Byte)
  /-- `S.localAddress <- a` (R130 line 2, R131). -/
  | putLocalAddress (a : Byte)
  /-- `S.networkId <- n` (R130 line 3). -/
  | putNetworkId (n : Byte)
  /-- `S.promiscuous <- on` (R130 line 4, R133). -/
  | putPromiscuous (on : Bool)
  /-- `S.powerLevel <- level` (R132 line 2). -/
  | putPowerLevel (level : BitVec 5)
  /-- `S.initialized <- true` (R130 line 7). -/
  | putInitialized
  /-- One field of the slot to zero or false (R102 line 1, R135, R100 lines 5 and 8). -/
  | clearField (f : SlotField)
  /-- `ReceiveBegin` line 2, with lines 3 and 4 to follow when the payload-ready condition is stale (R102). -/
  | restartIfStale
  /-- `ReceiveDone` line 2 (R103). -/
  | receiveTest
  /-- `OnReadyEdge` line 1, the cached-mode guard (R100, R101). -/
  | edgeGuard
  /-- `OnReadyEdge` line 2, the payload-ready guard (R100, R101). -/
  | edgeStatus
  /-- `OnReadyEdge` line 4 and the tests of lines 5 and 6 (R100). -/
  | popLength
  /-- `OnReadyEdge` line 7 (R100). -/
  | popTarget (length : Byte)
  /-- `OnReadyEdge` line 8 (R100, R93). -/
  | applyFilter (length target : Byte)
  /-- `OnReadyEdge` line 9 (R100). -/
  | popSender (length target : Byte)
  /-- `OnReadyEdge` line 10 (R100). -/
  | popControl (length target sender : Byte)
  /-- One iteration of `OnReadyEdge` line 11 (R100). -/
  | popPayload (i : Nat)
  /-- `OnReadyEdge` line 12 (R100). -/
  | storeFrame (length target sender control : Byte)
  /-- `OnReadyEdge` line 14 (R100). -/
  | sampleRssi
  /-- `fault(OversizeFrame)` (R106). -/
  | raiseOversize
  /-- The return from the interrupt context (R148). -/
  | irqReturn
  /-- `CanSend` line 1 (R110). -/
  | canSendMode
  /-- `CanSend` line 2 (R110). -/
  | canSendPending
  /-- `CanSend` lines 3 and 4 (R110, R112). -/
  | canSendMeasure
  /-- `CanSend` lines 8 and 9 (R110). -/
  | canSendStandby
  /-- The test of `SpinUntilClear`'s loop on `CanSend`'s result (R113). -/
  | spinTest
  /-- `SendAck` line 1, with the rest of the operation to follow (R122). -/
  | captureSender (payload : List Byte)
  /-- `SendFrame` line 5, with lines 6 to 11 to follow (R116). -/
  | loadFrame (target control : Byte) (payload : List Byte)
  /-- One iteration of `SendFrame` line 10 (R116, R119). -/
  | waitLine
  /-- `AckReceived` line 2, the sender test (R121). -/
  | ackSender (fromAddress : Byte)
  /-- `AckReceived` line 2, the flag test (R121). -/
  | ackFlag
  /-- `SendWithRetry` line 2 (R120). -/
  | retryLoop (r : RetrySession)
  /-- `SendWithRetry` line 4 (R120). -/
  | startWindow (r : RetrySession)
  /-- `SendWithRetry` line 5 (R120). -/
  | windowTest (r : RetrySession) (t0 : Millis)
  /-- `SendWithRetry` line 6, the test of the poll's result; a match opens the reading window (R120, R104). -/
  | windowPoll (r : RetrySession) (t0 : Millis)
  /-- `return b` of a sub-operation, into the caller's local variable. -/
  | ret (b : Bool)
  /-- A reported poll that found a frame opens the host's reading window (R104). -/
  | openWindow
  /-- The end of a command: `(done, result)` to the host (R70); `valued` says that the result is the Bool returned. -/
  | finish (valued : Bool)
deriving DecidableEq, Repr

/-- The answers of one kind the environment still has to give: the listed ones, oldest first, and after them free
values numbered by how many were taken (log entry 3). -/
structure Source (α : Type) where
  listed : List α
  taken : Nat
deriving DecidableEq, Repr

/-- What happens at one micro-step boundary (R145, R146): whether the ready line has an edge, and whether a pending,
enabled interrupt is taken (log entry 4). -/
structure Boundary where
  edge : Bool
  take : Bool
deriving DecidableEq, Repr

/-- The environment as the block meets it: its answers and its schedule (R10 (c), U17, U18). -/
structure Environment where
  reads : Source Byte
  rssis : Source Rssi
  clock : Source Millis
  line : Source Bool
  blob : Source Bool
  boundaries : List Boundary
deriving DecidableEq, Repr

/-- `Frame`, what Decode yields (R91, R67). -/
structure Frame where
  pendingLength : Byte
  payloadLength : Byte
  targetAddress : Byte
  senderAddress : Byte
  ackReply : Bool
  ackRequest : Bool
  payload : List Byte
deriving DecidableEq, Repr

/-- The three answers of `Decode` (R91). -/
inductive Decoded where
  | malformed
  | oversize
  | frame (f : Frame)
deriving DecidableEq, Repr

/-- The header of a frame with its payload length, which exists for the valid lengths 3..64 (R60, R61). -/
structure Header where
  length : Byte
  targetAddress : Byte
  senderAddress : Byte
  ackReply : Bool
  ackRequest : Bool
  payloadLength : Option Byte
deriving DecidableEq, Repr

/-- What the block hands to the host when a request has run to its end (R70, R71; log entries 8 and 25). -/
inductive Result where
  /-- A command without a result. -/
  | unit
  /-- A command's or the filter's Bool. -/
  | bool (b : Bool)
  /-- Encode's bytes (R90). -/
  | bytes (bs : List Byte)
  /-- Decode's answer (R91). -/
  | decoded (d : Decoded)
  /-- The fields of a frame header (R60). -/
  | header (h : Header)
  /-- The two flags of a control byte (R68). -/
  | control (ackReply ackRequest : Bool)
deriving DecidableEq, Repr

/-- The machine's state. The fields up to `faulted` are the record S of R11. -/
structure State where
  /-- The cached radio mode (R14). -/
  mode : RadioMode
  /-- R15. `none` until INITIALIZE: the spec's own value (R37). -/
  localAddress : Option Byte
  /-- R15. -/
  networkId : Option Byte
  /-- R16. -/
  promiscuous : Bool
  /-- R16. -/
  powerLevel : Option (BitVec 5)
  /-- R17 to R20. -/
  slot : Slot
  /-- R23. -/
  irqEnabled : Bool
  /-- R23. -/
  irqPending : Bool
  /-- R76, D32. -/
  initialized : Bool
  /-- R106, R155: never cleared. -/
  faulted : Bool
  /-- The foreground's position inside its operation; empty when no command is in flight (R13). -/
  foreground : List Micro
  /-- The interrupt context's position; empty when it does not run (R148). -/
  handler : List Micro
  /-- The enable states the open critical sections will restore, innermost first (R47). -/
  saved : List Bool
  /-- The Bool the latest sub-operation returned. -/
  flag : Bool
  /-- The host's reading window is open (R104). -/
  window : Bool
  /-- R70's `(done, result)`: `none` while a command is in flight. -/
  result : Option Result
  /-- The requests presented and not yet accepted, oldest first (R70, R174). -/
  port : List Request
  /-- The event history, oldest first (R56). -/
  trace : List BusEvent
  /-- CFG, which no step writes (R6, R10). -/
  cfg : Cfg
  /-- The environment's side (R10 (c)). -/
  env : Environment
deriving DecidableEq, Repr

/-- Why the machine stops with a fault. -/
inductive Fault where
  /-- `fault(OversizeFrame)`: raised by every step and every request once `S.faulted` is set; "a model must not give the
  state after this point any meaning" (R106, R155). Safe: the model stops where the spec gives no meaning. -/
  | oversizeFrame
deriving DecidableEq, Repr

/-- Why a request is not admitted. Every one leaves the state as it was (R76). -/
inductive Refusal where
  /-- Raised by no meaning: an arm of `exec` that has no meaning yet would answer it. Safe. -/
  | notModelled (mnemonic : String)
  /-- Raised by every command but INITIALIZE while `S.initialized` is false (R76). Safe. -/
  | notInitialized
  /-- Raised by the unassigned opcodes 0xE and 0xF (R76). Safe. -/
  | unassignedOpcode (op : BitVec 4)
  /-- Raised by SET_POWER_LEVEL above 31 (R132 line 1). Safe. -/
  | powerLevelRange
  /-- Raised by SET_ENCRYPTION_KEY with a key whose length is not 16 (R134 line 1). Safe. -/
  | keyLength
  /-- Raised by SEND_FRAME with both request flags (R116 line 1). Safe. -/
  | bothAckFlags
  /-- Raised where `S.localAddress` is read while it is none: "reading it before INITIALIZE is refused" (R37). Safe
  (log entry 11). -/
  | identityUnset
  /-- Raised by a request presented while a command is in flight, which "the host is assumed never to" do (R174). Safe
  (log entry 12). -/
  | commandInFlight
  /-- Raised by the step when the presented request is no instruction (`DecodeError`). Safe. -/
  | undecodable (e : DecodeError)
deriving DecidableEq, Repr

/-- The slot after reset: empty and zeroed, its payload bytes none (R37). -/
def Slot.reset : Slot where
  pendingLength := 0
  payloadLength := 0
  targetAddress := 0
  senderAddress := 0
  ackRequest := false
  ackReply := false
  payload := []
  rssi := 0

/-- Nothing listed and nothing taken. DESIGN CHOICE (log entry 3). -/
def Source.fresh (α : Type) : Source α where
  listed := []
  taken := 0

/-- DESIGN CHOICE (log entries 3 and 4). -/
def Environment.fresh : Environment where
  reads := Source.fresh Byte
  rssis := Source.fresh Rssi
  clock := Source.fresh Millis
  line := Source.fresh Bool
  blob := Source.fresh Bool
  boundaries := []

/-- The block after reset with a given configuration: the table of R37; the fields from `foreground` on are the
model's own (log entry 5). -/
def State.resetWith (c : Cfg) : State where
  mode := .standby
  localAddress := none
  networkId := none
  promiscuous := false
  powerLevel := none
  slot := Slot.reset
  irqEnabled := true
  irqPending := false
  initialized := false
  faulted := false
  foreground := []
  handler := []
  saved := []
  flag := false
  window := false
  result := none
  port := []
  trace := []
  cfg := c
  env := Environment.fresh

/-- The machine right after reset, with the default configuration of G1 to G3 (PRESUMED, log entry 2). -/
def State.reset : State :=
  State.resetWith Cfg.family

end Sys2Proof.Machine
end

