-- ==== Sys2Proof/Machine/Operands.lean ====
section
/-! DEFINITION. Operand forms and operand assembly: the mode operand (R72), the length and payload of a frame (R61, R66,
R67, R75), and the codec functions `Encode` and `Decode` (R90, R91). -/

namespace Sys2Proof.Machine

/-- `BROADCAST` (R5). -/
def broadcast : Byte := 0

/-- `HEADER_LEN` (R5). -/
def headerLen : Nat := 3

/-- `MAX_PAYLOAD` (R5). -/
def maxPayload : Nat := 61

/-- `MAX_LENGTH_BYTE` (R5). -/
def maxLengthByte : Nat := headerLen + maxPayload

/-- `KEY_LEN` (R5). -/
def keyLen : Nat := 16

/-- `Mode(t)` for the 3-bit operand: 5, 6 and 7 are unrecognized (R72, R82). -/
def modeOf (t : BitVec 3) : Option RadioMode :=
  match t.toNat with
  | 0 => some .sleep
  | 1 => some .standby
  | 2 => some .frequencySynthesis
  | 3 => some .receive
  | 4 => some .transmit
  | _ => none

/-- The operand code of a radio mode (R72). -/
def modeCode : RadioMode → BitVec 3
  | .sleep => 0
  | .standby => 1
  | .frequencySynthesis => 2
  | .receive => 3
  | .transmit => 4

/-- The payload after truncation: its first 61 bytes (R66, R95). -/
def truncated (payload : List Byte) : List Byte :=
  payload.take maxPayload

/-- `3 + n` with `n = min(len(p), 61)`, a byte that never wraps (R61, R75 (a), (b)). -/
def lengthByte (payload : List Byte) : Byte :=
  BitVec.ofNat 8 (headerLen + (truncated payload).length)

/-- `Encode(t, s, c, p) = [3 + n, t, s, c] ++ p[0..n-1]`; the control byte is written as given (R66, R90). -/
def encodeFrame (target sender control : Byte) (payload : List Byte) : List Byte :=
  lengthByte payload :: target :: sender :: control :: truncated payload

/-- A length byte below 3 (R69 (a)). -/
def lengthMalformed (length : Byte) : Bool :=
  length.toNat < headerLen

/-- A length byte above 64 (R69 (b), R106). -/
def lengthOversize (length : Byte) : Bool :=
  maxLengthByte < length.toNat

/-- `payloadLength = L - 3`, for 3 <= L (R67, R75 (c)). -/
def payloadLengthOf (length : Byte) : Byte :=
  length - 3

/-- Byte `i` of a list of FIFO bytes; a byte the list lacks is a free value (R91 corner case (iv), log entry 16). -/
def byteAt (bytes : List Byte) (i : Nat) : Byte :=
  (bytes[i]?).getD (Config.missingByte bytes i)

/-- Bit 7 of a control byte, `ackReply` (R92). -/
def controlAckReply (control : Byte) : Bool :=
  control.getLsbD 7

/-- Bit 6 of a control byte, `ackRequest` (R92). -/
def controlAckRequest (control : Byte) : Bool :=
  control.getLsbD 6

/-- `Decode(b)` (R91): the length is tested before anything else is looked at. -/
def decodeFrame (bytes : List Byte) : Decoded :=
  let length := byteAt bytes 0
  if lengthMalformed length then .malformed
  else if lengthOversize length then .oversize
  else .frame {
    pendingLength := length
    payloadLength := payloadLengthOf length
    targetAddress := byteAt bytes 1
    senderAddress := byteAt bytes 2
    ackReply := controlAckReply (byteAt bytes 3)
    ackRequest := controlAckRequest (byteAt bytes 3)
    payload := (List.range (payloadLengthOf length).toNat).map (fun i => byteAt bytes (4 + i)) }

/-- The fields of a frame header; a payload length exists for the valid lengths 3..64 (R60, R61). -/
def headerOf (length target sender : Byte) (ackReply ackRequest : Bool) : Header where
  length := length
  targetAddress := target
  senderAddress := sender
  ackReply := ackReply
  ackRequest := ackRequest
  payloadLength :=
    if lengthMalformed length || lengthOversize length then none else some (payloadLengthOf length)

/-- The address `A_KEY0 + i` of key byte i (R32, R75 (j)), paired with the byte, ascending. -/
def keyWrites (key0 : Addr) (key : List Byte) : List (Addr × Byte) :=
  key.zipIdx.map (fun p => (key0 + p.2, p.1))

end Sys2Proof.Machine
end

