-- ==== Sys2Proof/Machine/Flags.lean ====
section
/-! DEFINITION. Every condition and flag the rules compute: the control byte of an outgoing frame (R118), the address
filter (R93), the clear-channel comparison (R112), the status-bit tests (R27, R28), the acknowledgement match (R121) and
the elapsed-time test (R75 (i), R120). -/

namespace Sys2Proof.Machine

/-- `0x80 if sendAck else (0x40 if requestAck else 0x00)` (R66, R118). -/
def controlByte (requestAck sendAck : Bool) : Byte :=
  if sendAck then 0x80 else if requestAck then 0x40 else 0x00

/-- `Filter(T)`: `S.promiscuous or (T = S.localAddress) or (T = 0)` (R93). Where the local address is none and is read,
there is no answer (R37, log entry 11). -/
def filterAccepts (promiscuous : Bool) (localAddress : Option Byte) (target : Byte) : Option Bool :=
  if promiscuous then some true
  else match localAddress with
    | none => none
    | some a => some (target == a || target == broadcast)

/-- `r < CFG.CSMA_LIMIT`, signed, strict (R112, R75 (g)). -/
def channelClear (r limit : Rssi) : Bool :=
  r.slt limit

/-- A status bit reads set: `(v & B) != 0` (R80 line 10, R100 line 2, R102 line 2). -/
def statusSet (v bit : Byte) : Bool :=
  v &&& bit != 0

/-- `senderAddress = from or from = 0` (R121). -/
def senderMatches (sender fromAddress : Byte) : Bool :=
  sender == fromAddress || fromAddress == broadcast

/-- `(Now() - t0) mod 2^32 < zext_32(timeoutMs)`, strict (R75 (i), R120 line 5). -/
def withinWindow (now t0 : Millis) (timeout : BitVec 16) : Bool :=
  (now - t0).ult (timeout.setWidth 32)

/-- `retries + 1` in 9 bits: 1..256, never wraps (R75 (h), C4). -/
def attemptsOf (retries : Byte) : BitVec 9 :=
  retries.setWidth 9 + 1

/-- `(old & ~M) | V` with `keep = ~M` (R75 (f)). -/
def modified (old keep set : Byte) : Byte :=
  (old &&& keep) ||| set

end Sys2Proof.Machine
end

