-- ==== Sys2Proof/Machine/Ops.lean ====
section
/-! DEFINITION. The named operations over the state: the port and its event history (R40, R41, R56), the environment's
draws, critical sections (R47), the slot and its payload buffer, and the interrupt's entry and return (R145, R148). -/

namespace Sys2Proof.Machine

/-! ### The payload buffer -/

/-- The byte at an index of the payload buffer; none where nothing has been written (R37). -/
def Memory.read : Memory → Nat → Option Byte
  | [], _ => none
  | (c, v) :: rest, i => if c = i then some v else Memory.read rest i

/-- The buffer with a byte written at an index, indices kept rising. -/
def Memory.write : Memory → Nat → Byte → Memory
  | [], i, b => [(i, b)]
  | (c, v) :: rest, i, b =>
    if i < c then (i, b) :: (c, v) :: rest
    else if i = c then (i, b) :: rest
    else (c, v) :: Memory.write rest i b

/-- Indices rise strictly from a lower bound and stay below 61 (R24 (a)). -/
def Memory.wfFrom : Nat → Memory → Bool
  | _, [] => true
  | low, (c, _) :: rest => low ≤ c && c < maxPayload && Memory.wfFrom (c + 1) rest

/-- The canonical form of the payload buffer: indices 0..60, strictly rising. -/
def Memory.wf (m : Memory) : Bool :=
  Memory.wfFrom 0 m

/-- A payload byte as a reader sees it: no value at or past `payloadLength` (R18, D31). -/
def Slot.payloadByte (s : Slot) (i : Nat) : Option Byte :=
  if i < s.payloadLength.toNat then Memory.read s.payload i else none

/-- "A frame is pending in the slot" (R18). -/
def Slot.pending (s : Slot) : Bool :=
  0 < s.pendingLength.toNat

/-- Clearing it empties the slot: the pending length goes to 0 (R18). -/
def SlotField.empties : SlotField → Bool
  | .lengths | .pendingLength => true
  | .targetAddress | .senderAddress | .ackRequest | .ackReply | .rssi => false

/-- One scalar field, or the two lengths, to zero or false (R102 line 1). -/
def Slot.clearField (s : Slot) : SlotField → Slot
  | .lengths => { s with pendingLength := 0, payloadLength := 0 }
  | .pendingLength => { s with pendingLength := 0 }
  | .targetAddress => { s with targetAddress := 0 }
  | .senderAddress => { s with senderAddress := 0 }
  | .ackRequest => { s with ackRequest := false }
  | .ackReply => { s with ackReply := false }
  | .rssi => { s with rssi := 0 }

/-- `OnReadyEdge` line 12 (R100, R67). -/
def Slot.store (s : Slot) (length target sender control : Byte) : Slot :=
  { s with
    pendingLength := length
    payloadLength := payloadLengthOf length
    targetAddress := target
    senderAddress := sender
    ackReply := controlAckReply control
    ackRequest := controlAckRequest control }

/-! ### Draws -/

/-- The next answer of a source: the oldest listed one, or the free value of its number (log entry 3). -/
def Source.answer {α : Type} (q : Source α) (free : Nat → α) : α :=
  match q.listed with
  | a :: _ => a
  | [] => free q.taken

/-- The source after one answer has been taken. -/
def Source.rest {α : Type} (q : Source α) : Source α where
  listed := q.listed.tail
  taken := q.taken + 1

/-- The source after `k` answers have been taken. -/
def Source.drop {α : Type} (q : Source α) (k : Nat) : Source α where
  listed := q.listed.drop k
  taken := q.taken + k

/-- The answer a source gives after `k` others have been taken. -/
def Source.answerAt {α : Type} (q : Source α) (free : Nat → α) (k : Nat) : α :=
  (q.drop k).answer free

/-! ### The port -/

/-- A transaction enters the event history (R56). -/
def State.record (s : State) (ctx : Context) (t : Transfer) : State :=
  { s with trace := s.trace ++ [⟨ctx, t⟩] }

/-- What the next `RegRead` returns: the environment's answer (R40). -/
def State.readAnswer (s : State) : Byte :=
  s.env.reads.answer Config.freeRead

/-- `RegRead(a)` (R40). -/
def State.regRead (s : State) (ctx : Context) (a : Addr) : State :=
  { s with
    env := { s.env with reads := s.env.reads.rest }
    trace := s.trace ++ [⟨ctx, .read a s.readAnswer⟩] }

/-- `RegWrite(a, v)` (R41). -/
def State.regWrite (s : State) (ctx : Context) (a : Addr) (v : Byte) : State :=
  s.record ctx (.write a v)

/-- The last byte an event history writes to an address. -/
def lastWrite (a : Addr) : List BusEvent → Option Byte
  | [] => none
  | ⟨_, .write a' v⟩ :: rest => (lastWrite a rest).or (if a' = a then some v else none)
  | ⟨_, .read _ _⟩ :: rest => lastWrite a rest

/-- What the block last wrote to a device register (R35 (c), R48 (d)). -/
def State.lastWritten (s : State) (a : Addr) : Option Byte :=
  lastWrite a s.trace

/-- What the next `ReadRssi()` returns (R8, R112). -/
def State.rssiAnswer (s : State) : Rssi :=
  s.env.rssis.answer Config.freeRssi

/-- `ReadRssi()`; it makes no port transaction of its own (R112). -/
def State.drawRssi (s : State) : State :=
  { s with env := { s.env with rssis := s.env.rssis.rest } }

/-- What the next `Now()` returns (R151). -/
def State.nowAnswer (s : State) : Millis :=
  s.env.clock.answer Config.freeNow

/-- `Now()` (R151). -/
def State.drawNow (s : State) : State :=
  { s with env := { s.env with clock := s.env.clock.rest } }

/-- What the next `ReadyLine()` returns (R34, R119). -/
def State.lineAnswer (s : State) : Bool :=
  s.env.line.answer Config.freeLine

/-- `ReadyLine()`; it makes no port transaction (R119). -/
def State.drawLine (s : State) : State :=
  { s with env := { s.env with line := s.env.line.rest } }

/-- What `ConfigBlob(band, nodeId, networkId)` returns (R130, U16). -/
def State.blobAnswer (s : State) (band nodeId networkId : Byte) : Bool :=
  s.env.blob.answer (Config.freeBlob band nodeId networkId)

/-- `ConfigBlob`: its port traffic is opaque and not in the history (R4 (a), U16). -/
def State.drawBlob (s : State) : State :=
  { s with env := { s.env with blob := s.env.blob.rest } }

/-! ### Critical sections -/

/-- `c <- EnterCritical()` (R47). -/
def State.enterCritical (s : State) : State :=
  { s with saved := s.irqEnabled :: s.saved, irqEnabled := false }

/-- `ExitCritical(c)`: the enable state the matching entry saved (R47). -/
def State.exitCritical (s : State) : State :=
  match s.saved with
  | c :: outer => { s with saved := outer, irqEnabled := c }
  | [] => s

/-! ### Positions -/

/-- The micro-steps that come next in a context. -/
def State.push (s : State) (ctx : Context) (ms : List Micro) : State :=
  match ctx with
  | .fg => { s with foreground := ms ++ s.foreground }
  | .irq => { s with handler := ms ++ s.handler }

/-- No command is in flight and the interrupt context does not run (R13, R160). -/
def State.idle (s : State) : Bool :=
  s.foreground.isEmpty && s.handler.isEmpty

/-! ### The interrupt -/

/-- An edge of the ready line: "sets `S.irqPending <- true` whatever `S.irqEnabled` is" (R23, R145). -/
def State.edge (s : State) : State :=
  { s with irqPending := true }

/-- The program of the interrupt context: ON_READY_EDGE, then the return (R100, R148). -/
def handlerProgram : List Micro :=
  [.edgeGuard, .irqReturn]

/-- Interrupt entry: pending and enable cleared, nothing saved, control to ON_READY_EDGE (R148). -/
def State.enterInterrupt (s : State) : State :=
  { s with irqPending := false, irqEnabled := false, handler := handlerProgram ++ s.handler }

/-- Interrupt return: `S.irqEnabled <- true` (R148). -/
def State.returnFromInterrupt (s : State) : State :=
  { s with irqEnabled := true }

/-- The interrupt starts "only when `S.irqEnabled and S.irqPending`" (R23, R145), if the schedule takes it. -/
def State.takeInterrupt (s : State) (take : Bool) : State :=
  if take && s.irqEnabled && s.irqPending then s.enterInterrupt else s

/-- A micro-step boundary: the edge and the delivery the schedule lists; past its end no edge comes and a pending,
enabled interrupt is taken (R146, U18; log entry 4). -/
def State.boundary (s : State) : State :=
  match s.env.boundaries with
  | [] => s.takeInterrupt true
  | b :: rest =>
    let s1 := { s with env := { s.env with boundaries := rest } }
    (if b.edge then s1.edge else s1).takeInterrupt b.take

/-! ### The host's side -/

/-- The reading window closes when the host issues a command that can reach `ReceiveBegin()` or `SetMode(3)`, and
whenever the pending length is written (R104; log entry 7). -/
def State.closeWindow (s : State) : State :=
  { s with window := false }

/-- The reading window opens on a frame reported to the host, the mode being Standby then (R104; log entry 7). -/
def State.openWindow (s : State) : State :=
  { s with window := s.mode == .standby }

/-- What the host reads of the slot: its scalar fields and the payload bytes below `payloadLength`. -/
structure SlotView where
  pendingLength : Byte
  payloadLength : Byte
  targetAddress : Byte
  senderAddress : Byte
  ackRequest : Bool
  ackReply : Bool
  payload : List (Option Byte)
  rssi : Rssi
deriving DecidableEq, Repr

/-- The fields of a slot as a reader sees them (R18). -/
def Slot.view (s : Slot) : SlotView where
  pendingLength := s.pendingLength
  payloadLength := s.payloadLength
  targetAddress := s.targetAddress
  senderAddress := s.senderAddress
  ackRequest := s.ackRequest
  ackReply := s.ackReply
  payload := (List.range s.payloadLength.toNat).map s.payloadByte
  rssi := s.rssi

/-- The host's read of the slot: "outside this window ... a model gives it no value" (R104, R174, U12). -/
def State.hostSlot (s : State) : Option SlotView :=
  if s.window then some s.slot.view else none

end Sys2Proof.Machine
end

