-- ==== Sys2Proof/Machine/Programs.lean ====
section
/-! DEFINITION. The pseudocode of the operations as lists of micro-operations, line by line (R80, R102, R103, R110, R113,
R115, R116, R120 to R122, R130 to R135). -/

namespace Sys2Proof.Machine

/-- The read-modify-write of a field: `RegWrite(a, (RegRead(a) & ~mask) | value)` (R75 (f)). -/
def modifyField (a : Addr) (mask value : Byte) : Micro :=
  .modify a (~~~mask) value

/-- The read-modify-write that only sets a bit: `RegWrite(a, RegRead(a) | bit)` (R102 lines 3 and 4, R115, D27). -/
def modifyOr (a : Addr) (bit : Byte) : Micro :=
  .modify a 0xFF bit

/-- A program between `EnterCritical` and `ExitCritical` (R47, R50). -/
def critical (body : List Micro) : List Micro :=
  .enterCritical :: body ++ [.exitCritical]

/-- A list of plain writes in order. -/
def writes (l : List (Addr × Byte)) : List Micro :=
  l.map (fun p => .regWrite p.1 p.2)

/-- The power-amplifier tuning list of a transition: only when boosted, and only for Transmit and Receive (R80 lines 7
and 8, R83). -/
def tuningList (c : Cfg) (m : RadioMode) : List (Addr × Byte) :=
  match c.boosted, m with
  | true, .transmit => c.paTune true
  | true, .receive => c.paTune false
  | _, _ => []

/-- `SetMode` lines 3 to 11, the transition to a mode that is not the current one (R80). -/
def transition (c : Cfg) (m : RadioMode) : List Micro :=
  critical [modifyField c.regmap.aOpmode c.regmap.mMode (c.regmap.vMode m)]
    ++ writes (tuningList c m) ++ [.waitIfSleep, .storeMode m]

/-- `ReceiveSlotClear()`: line 1 of `ReceiveBegin()` (R102, R135). DEDUCED, unsafe: the two lengths are cleared in one
micro-step, so that no boundary stands between them; an interrupt there would leave a pending frame whose lengths
disagree, against R18 (log entry 15). -/
def receiveSlotClear : List Micro :=
  [.clearField .lengths, .clearField .targetAddress, .clearField .senderAddress, .clearField .ackRequest,
    .clearField .ackReply, .clearField .rssi]

/-- `ReceiveBegin()` (R102). -/
def receiveBegin (c : Cfg) : List Micro :=
  receiveSlotClear ++ [.restartIfStale, .regWrite c.regmap.aDiomap c.regmap.vDioRx, .setMode 3]

/-- `ReceiveDone()`: lines 1 and 2, the rest to follow (R103). -/
def receiveDone : List Micro :=
  [.enterCritical, .receiveTest]

/-- `ReceiveDone()` lines 3 to 5. -/
def receiveDoneFound : List Micro :=
  [.setMode 1, .exitCritical, .ret true]

/-- `ReceiveDone()` lines 6 to 8. -/
def receiveDoneRearm (c : Cfg) : List Micro :=
  receiveBegin c ++ [.exitCritical, .ret false]

/-- `SpinUntilClear()` (R113). -/
def spinUntilClear : List Micro :=
  [.canSendMode, .spinTest]

/-- The up-front restart write of `Send`, lines 1 to 4 (R115, D27). -/
def restartWrite (c : Cfg) : List Micro :=
  critical [modifyOr c.regmap.aPktcfg c.regmap.bRestartRx]

/-- `FifoFill(bytes)` (R54). -/
def fifoFill (c : Cfg) (bytes : List Byte) : List Micro :=
  bytes.map (fun b => .regWrite c.regmap.aFifo b)

/-- `SendFrame(t, p, requestAck, sendAck)` lines 2 to 5, the rest to follow (R116). -/
def sendFrame (c : Cfg) (target : Byte) (payload : List Byte) (requestAck sendAck : Bool) : List Micro :=
  [.setMode 1, .regWrite c.regmap.aDiomap c.regmap.vDioTx,
    .loadFrame target (controlByte requestAck sendAck) payload]

/-- `SendFrame` lines 6 to 11 (R116). -/
def sendFrameBody (c : Cfg) (bytes : List Byte) : List Micro :=
  critical (fifoFill c bytes) ++ [.setMode 4, .waitLine, .setMode 1]

/-- `Send(t, p, requestAck)` (R115). -/
def send (c : Cfg) (target : Byte) (payload : List Byte) (requestAck : Bool) : List Micro :=
  restartWrite c ++ spinUntilClear ++ sendFrame c target payload requestAck false

/-- `AckReceived(from)` as a command (R121). Its poll opens the reading window when it finds a frame (R104). -/
def ackReceived (fromAddress : Byte) : List Micro :=
  receiveDone ++ [.openWindow, .ackSender fromAddress]

/-- `AckReceived(t)` inside SEND_WITH_RETRY (R120 line 6, R121). It opens no window: the host must not tell "whether
any frame was seen in the windows" (R144). -/
def retryPoll (target : Byte) : List Micro :=
  receiveDone ++ [.ackSender target]

/-- `Initialize(band, nodeId, networkId)` (R130). -/
def initBlock (band nodeId networkId : Byte) : List Micro :=
  [.configBlob band nodeId networkId, .putLocalAddress nodeId, .putNetworkId networkId, .putPromiscuous false]
    ++ receiveSlotClear ++ [.setMode 1, .putInitialized, .finish true]

/-- `SetPowerLevel(level)` lines 2 to 6; the level goes into the field zero-extended (R132). -/
def setPowerLevel (c : Cfg) (level : BitVec 5) : List Micro :=
  .putPowerLevel level :: critical [modifyField c.regmap.aPalevel c.regmap.mPalevel (level.setWidth 8)]

/-- `SetEncryptionKey(key)` lines 2 to 8 (R134). -/
def setEncryptionKey (c : Cfg) (key : Option (List Byte)) : List Micro :=
  match key with
  | some k =>
    .setMode 1 ::
      critical (writes (keyWrites c.regmap.aKey0 k)
        ++ [modifyField c.regmap.aCipher c.regmap.bCipherOn c.regmap.bCipherOn])
  | none => .setMode 1 :: critical [modifyField c.regmap.aCipher c.regmap.bCipherOn 0]

end Sys2Proof.Machine
end

