-- ==== Sys2Proof/Machine/Engine.lean ====
section
/-! DEFINITION. The engine: one micro-step of R146, the boundary before it, the run of an operation, and the admission of
a command (R70, R76). -/

namespace Sys2Proof.Machine

/-- `SetMode(t)` lines 1 and 2: an unrecognized target and the current mode are no-ops (R80, R82). -/
def runSetMode (ctx : Context) (t : BitVec 3) (s : State) : State :=
  match modeOf t with
  | none => s
  | some m => if m = s.mode then s else s.push ctx (transition s.cfg m)

/-- `SetMode` line 9. -/
def runWaitIfSleep (ctx : Context) (s : State) : State :=
  if s.mode = .sleep then s.push ctx [.waitModeReady] else s

/-- One iteration of `SetMode` line 10: it ends the wait or asks for another (R84, R170: no timeout). -/
def runWaitModeReady (ctx : Context) (s : State) : State :=
  let s1 := s.regRead ctx s.cfg.regmap.aIrq1
  if statusSet s.readAnswer s.cfg.regmap.bModeReady then s1 else s1.push ctx [.waitModeReady]

/-- `ReceiveBegin` line 2 and, when the payload-ready condition is stale, lines 3 and 4 to follow (R102, R166). -/
def runRestartIfStale (ctx : Context) (s : State) : State :=
  let s1 := s.regRead ctx s.cfg.regmap.aIrq2
  if statusSet s.readAnswer s.cfg.regmap.bPayloadReady then
    s1.push ctx [modifyOr s.cfg.regmap.aPktcfg s.cfg.regmap.bRestartRx]
  else s1

/-- A part of the slot to zero; writing the pending length closes the reading window (R102, R104). -/
def runClearField (f : SlotField) (s : State) : State :=
  { s with slot := s.slot.clearField f, window := s.window && !f.empties }

/-- `ReceiveDone` line 2, inside its critical section (R103). -/
def runReceiveTest (ctx : Context) (s : State) : State :=
  if s.mode = .receive && s.slot.pending then s.push ctx receiveDoneFound
  else s.push ctx (receiveDoneRearm s.cfg)

/-- `OnReadyEdge` line 1 (R101). -/
def runEdgeGuard (ctx : Context) (s : State) : State :=
  if s.mode = .receive then s.push ctx [.edgeStatus] else s

/-- `OnReadyEdge` line 2, with lines 3 and 4 to follow (R101). -/
def runEdgeStatus (ctx : Context) (s : State) : State :=
  let s1 := s.regRead ctx s.cfg.regmap.aIrq2
  if statusSet s.readAnswer s.cfg.regmap.bPayloadReady then s1.push ctx [.setMode 1, .popLength] else s1

/-- A discard: `S.slot.pendingLength <- 0; ReceiveBegin(); return` (R100 lines 5 and 8, R141, R142). -/
def discard (c : Cfg) : List Micro :=
  .clearField .pendingLength :: receiveBegin c

/-- `OnReadyEdge` lines 4 to 6: drop(Malformed), fault(OversizeFrame), or on to the target (R100, R106, R147). -/
def runPopLength (ctx : Context) (s : State) : State :=
  let length := s.readAnswer
  let s1 := s.regRead ctx s.cfg.regmap.aFifo
  if lengthMalformed length then s1.push ctx (discard s.cfg)
  else if lengthOversize length then s1.push ctx [.raiseOversize]
  else s1.push ctx [.popTarget length]

/-- `OnReadyEdge` line 7. -/
def runPopTarget (ctx : Context) (length : Byte) (s : State) : State :=
  (s.regRead ctx s.cfg.regmap.aFifo).push ctx [.applyFilter length s.readAnswer]

/-- `OnReadyEdge` line 8: the filter, or drop(Filtered) (R93, R100, R142). -/
def runApplyFilter (ctx : Context) (length target : Byte) (s : State) : Host.Outcome State Fault Refusal :=
  match filterAccepts s.promiscuous s.localAddress target with
  | none => .refused .identityUnset
  | some true => .next (s.push ctx [.popSender length target])
  | some false => .next (s.push ctx (discard s.cfg))

/-- `OnReadyEdge` line 9. -/
def runPopSender (ctx : Context) (length target : Byte) (s : State) : State :=
  (s.regRead ctx s.cfg.regmap.aFifo).push ctx [.popControl length target s.readAnswer]

/-- `OnReadyEdge` line 10, with lines 11 to 14 to follow. -/
def runPopControl (ctx : Context) (length target sender : Byte) (s : State) : State :=
  (s.regRead ctx s.cfg.regmap.aFifo).push ctx
    ((List.range (payloadLengthOf length).toNat).map Micro.popPayload
      ++ [.storeFrame length target sender s.readAnswer, .setMode 3, .sampleRssi])

/-- One iteration of `OnReadyEdge` line 11: `S.slot.payload[i] <- RegRead(A_FIFO)`. -/
def runPopPayload (ctx : Context) (i : Nat) (s : State) : State :=
  { s.regRead ctx s.cfg.regmap.aFifo with
    slot := { s.slot with payload := Memory.write s.slot.payload i s.readAnswer } }

/-- `OnReadyEdge` line 12. -/
def runStoreFrame (length target sender control : Byte) (s : State) : State :=
  { s with slot := s.slot.store length target sender control, window := false }

/-- `OnReadyEdge` line 14 (D17). -/
def runSampleRssi (s : State) : State :=
  { s.drawRssi with slot := { s.slot with rssi := s.rssiAnswer } }

/-- `CanSend` line 1 (R110). -/
def runCanSendMode (ctx : Context) (s : State) : State :=
  if s.mode = .receive then s.push ctx [.canSendPending] else s.push ctx [.canSendStandby]

/-- `CanSend` lines 2 and 7. -/
def runCanSendPending (ctx : Context) (s : State) : State :=
  if s.slot.pending then s.push ctx [.ret false] else s.push ctx [.canSendMeasure]

/-- `CanSend` lines 3 to 7 (R112). -/
def runCanSendMeasure (ctx : Context) (s : State) : State :=
  if channelClear s.rssiAnswer s.cfg.csmaLimit then s.drawRssi.push ctx [.setMode 1, .ret true]
  else s.drawRssi.push ctx [.ret false]

/-- `CanSend` lines 8 and 9. -/
def runCanSendStandby (s : State) : State :=
  { s with flag := s.mode = .standby }

/-- `SpinUntilClear`: while not `CanSend()`, `ReceiveDone()`, its result ignored (R113). -/
def runSpinTest (ctx : Context) (s : State) : State :=
  if s.flag then s else s.push ctx (receiveDone ++ spinUntilClear)

/-- `SendAck`: the sender is captured before the spin can clear the slot (R122). -/
def runCaptureSender (ctx : Context) (payload : List Byte) (s : State) : State :=
  s.push ctx (spinUntilClear ++ sendFrame s.cfg s.slot.senderAddress payload false true)

/-- `SendFrame` line 5: `S.localAddress` is read once (R116 corner case (iii)). -/
def runLoadFrame (ctx : Context) (target control : Byte) (payload : List Byte) (s : State) :
    Host.Outcome State Fault Refusal :=
  match s.localAddress with
  | none => .refused .identityUnset
  | some a => .next (s.push ctx (sendFrameBody s.cfg (encodeFrame target a control payload)))

/-- One iteration of `SendFrame` line 10 (R119, R170: no timeout). -/
def runWaitLine (ctx : Context) (s : State) : State :=
  if s.lineAnswer then s.drawLine else s.drawLine.push ctx [.waitLine]

/-- `AckReceived`: line 3 when the poll found nothing, else the sender test of line 2 (R121). -/
def runAckSender (ctx : Context) (fromAddress : Byte) (s : State) : State :=
  if s.flag && senderMatches s.slot.senderAddress fromAddress then s.push ctx [.ackFlag]
  else s.push ctx [.ret false]

/-- `AckReceived` line 2, the flag (R121). -/
def runAckFlag (s : State) : State :=
  { s with flag := s.slot.ackReply }

/-- `SendWithRetry` lines 2, 3 and 8 (R120). -/
def runRetryLoop (ctx : Context) (r : RetrySession) (s : State) : State :=
  if r.attemptsRemaining = 0 then s.push ctx [.ret false]
  else s.push ctx (send s.cfg r.targetAddress r.payload true ++ [.startWindow r])

/-- `SendWithRetry` line 4: the window starts when `Send` has returned (R120, D21). -/
def runStartWindow (ctx : Context) (r : RetrySession) (s : State) : State :=
  s.drawNow.push ctx [.windowTest r s.nowAnswer]

/-- The session with one attempt less (R120 line 7). -/
def RetrySession.next (r : RetrySession) : RetrySession :=
  { r with attemptsRemaining := r.attemptsRemaining - 1 }

/-- `SendWithRetry` line 5: another poll, or line 7 (R120). -/
def runWindowTest (ctx : Context) (r : RetrySession) (t0 : Millis) (s : State) : State :=
  if withinWindow s.nowAnswer t0 r.perAttemptTimeout then
    s.drawNow.push ctx (retryPoll r.targetAddress ++ [.windowPoll r t0])
  else s.drawNow.push ctx [.retryLoop r.next]

/-- `SendWithRetry` line 6 (R120). Only the poll that matched opens the host's reading window (R104, R120 corner case
(vii)): a frame that did not match is one the host must not see (R144; log entry 7). -/
def runWindowPoll (ctx : Context) (r : RetrySession) (t0 : Millis) (s : State) : State :=
  if s.flag then s.openWindow.push ctx [.ret true] else s.push ctx [.windowTest r t0]

/-- A reported poll that found a frame opens the host's reading window (R104, R121 corner case (iv)). -/
def runOpenWindow (s : State) : State :=
  if s.flag then s.openWindow else s.closeWindow

/-- The end of a command: the host gets `(done, result)` (R70). -/
def runFinish (valued : Bool) (s : State) : State :=
  { s with result := some (if valued then .bool s.flag else .unit) }

/-- One micro-step of a context (R146); `s` is the state after the context's position has moved past it. -/
def runMicro (ctx : Context) (m : Micro) (s : State) : Host.Outcome State Fault Refusal :=
  match m with
  | .regWrite a v => .next (s.regWrite ctx a v)
  | .modify a keep set => .next ((s.regRead ctx a).push ctx [.regWrite a (modified s.readAnswer keep set)])
  | .enterCritical => .next s.enterCritical
  | .exitCritical => .next s.exitCritical
  | .setMode t => .next (runSetMode ctx t s)
  | .waitIfSleep => .next (runWaitIfSleep ctx s)
  | .waitModeReady => .next (runWaitModeReady ctx s)
  | .storeMode m => .next { s with mode := m }
  | .configBlob band nodeId networkId => .next { s.drawBlob with flag := s.blobAnswer band nodeId networkId }
  | .putLocalAddress a => .next { s with localAddress := some a }
  | .putNetworkId n => .next { s with networkId := some n }
  | .putPromiscuous on => .next { s with promiscuous := on }
  | .putPowerLevel level => .next { s with powerLevel := some level }
  | .putInitialized => .next { s with initialized := true }
  | .clearField f => .next (runClearField f s)
  | .restartIfStale => .next (runRestartIfStale ctx s)
  | .receiveTest => .next (runReceiveTest ctx s)
  | .edgeGuard => .next (runEdgeGuard ctx s)
  | .edgeStatus => .next (runEdgeStatus ctx s)
  | .popLength => .next (runPopLength ctx s)
  | .popTarget length => .next (runPopTarget ctx length s)
  | .applyFilter length target => runApplyFilter ctx length target s
  | .popSender length target => .next (runPopSender ctx length target s)
  | .popControl length target sender => .next (runPopControl ctx length target sender s)
  | .popPayload i => .next (runPopPayload ctx i s)
  | .storeFrame length target sender control => .next (runStoreFrame length target sender control s)
  | .sampleRssi => .next (runSampleRssi s)
  | .raiseOversize => .next { s with faulted := true }
  | .irqReturn => .next s.returnFromInterrupt
  | .canSendMode => .next (runCanSendMode ctx s)
  | .canSendPending => .next (runCanSendPending ctx s)
  | .canSendMeasure => .next (runCanSendMeasure ctx s)
  | .canSendStandby => .next (runCanSendStandby s)
  | .spinTest => .next (runSpinTest ctx s)
  | .captureSender payload => .next (runCaptureSender ctx payload s)
  | .loadFrame target control payload => runLoadFrame ctx target control payload s
  | .waitLine => .next (runWaitLine ctx s)
  | .ackSender fromAddress => .next (runAckSender ctx fromAddress s)
  | .ackFlag => .next (runAckFlag s)
  | .retryLoop r => .next (runRetryLoop ctx r s)
  | .startWindow r => .next (runStartWindow ctx r s)
  | .windowTest r t0 => .next (runWindowTest ctx r t0 s)
  | .windowPoll r t0 => .next (runWindowPoll ctx r t0 s)
  | .ret b => .next { s with flag := b }
  | .openWindow => .next (runOpenWindow s)
  | .finish valued => .next (runFinish valued s)

/-- The micro-step that is next: the interrupt context's while it runs, "the foreground never runs while the interrupt
context does" (R146). -/
def advance (s : State) : Host.Outcome State Fault Refusal :=
  match s.handler with
  | m :: rest => runMicro .irq m { s with handler := rest }
  | [] =>
    match s.foreground with
    | m :: rest => runMicro .fg m { s with foreground := rest }
    | [] => .next s

/-- One boundary and the micro-step after it (R146). -/
def tick (s : State) : Host.Outcome State Fault Refusal :=
  advance s.boundary

/-- Nothing runs on: the block is idle, or faulted (R106: "sets `S.faulted` and stops"). -/
def State.halted (s : State) : Bool :=
  s.faulted || s.idle

/-- Up to `n` micro-steps, ending early when nothing runs on. What has not finished stays in flight. -/
def drive : Nat → State → Host.Outcome State Fault Refusal
  | 0, s => .next s
  | n + 1, s =>
    if s.halted then .next s
    else match tick s with
      | .next s' => drive n s'
      | .fault f => .fault f
      | .refused r => .refused r

/-- How many micro-steps one step runs at most: a grain of observation only, since an operation that has not finished
is resumed by the next step (log entry 1). -/
def stepBudget (c : Cfg) : Nat :=
  1048576 * (c.paTuneOn.length + c.paTuneOff.length + 1)

/-- Starts an operation of the foreground and runs it to its end, or as far as one step goes. -/
def launch (program : List Micro) (s : State) : Host.Outcome State Fault Refusal :=
  drive (stepBudget s.cfg) { s with foreground := program, result := none }

/-- Admits a command (R70, R76): one at a time, none after a fault, none but INITIALIZE before INITIALIZE, none with an
operand out of its range. Where a command breaks two of these conditions R76 names no order: DESIGN CHOICE, the reason
given is the first of faulted, in flight, not initialized, operand (log entry 27). -/
def command (outOfRange : Option Refusal) (program : List Micro) (s : State) : Host.Outcome State Fault Refusal :=
  if s.faulted then .fault .oversizeFrame
  else if !s.idle then .refused .commandInFlight
  else if !s.initialized then .refused .notInitialized
  else match outOfRange with
    | some r => .refused r
    | none => launch program s

/-- Answers a request for one of the codec's pure functions; nothing but the result changes (log entry 8). -/
def evaluate (answer : Except Refusal Result) (s : State) : Host.Outcome State Fault Refusal :=
  if s.faulted then .fault .oversizeFrame
  else if !s.idle then .refused .commandInFlight
  else match answer with
    | .ok r => .next { s with result := some r }
    | .error e => .refused e

/-- The event of a ready-line edge: latched whatever the enable, and taken when enabled (R23, R145, R148). -/
def readyEdge (s : State) : Host.Outcome State Fault Refusal :=
  if s.faulted then .fault .oversizeFrame
  else if s.irqEnabled then drive (stepBudget s.cfg) s.edge.enterInterrupt
  else .next s.edge

end Sys2Proof.Machine
end

