-- ==== Sys2Proof/Machine/Codec.lean ====
section
/-! DEFINITION. The wire rows of the table: FRAME_HEADER (R60), ENCODE (R90), DECODE (R91), FILTER (R93) and the four
control-byte kinds (R68). They are pure functions, not commands; their answer is the result (log entry 8). -/

namespace Sys2Proof.Machine

/-- FRAME_HEADER (R60, R61): the header's fields, with the payload length of a valid length byte. -/
def execFrameHeader (length target sender : Byte) (ackReply ackRequest : Bool) (s : State) :
    Host.Outcome State Fault Refusal :=
  evaluate (.ok (.header (headerOf length target sender ackReply ackRequest))) s

/-- ENCODE (R90): `Encode(t, S.localAddress, c, p)`. -/
def execEncode (target control : Byte) (payload : List Byte) (s : State) : Host.Outcome State Fault Refusal :=
  evaluate
    (match s.localAddress with
      | some a => .ok (.bytes (encodeFrame target a control payload))
      | none => .error .identityUnset) s

/-- DECODE (R91): Malformed and Oversize are answers here; the pipeline turns them into a drop and a fault. -/
def execDecode (bytes : List Byte) (s : State) : Host.Outcome State Fault Refusal :=
  evaluate (.ok (.decoded (decodeFrame bytes))) s

/-- FILTER (R93). -/
def execFilter (target : Byte) (s : State) : Host.Outcome State Fault Refusal :=
  evaluate
    (match filterAccepts s.promiscuous s.localAddress target with
      | some b => .ok (.bool b)
      | none => .error .identityUnset) s

/-- The flags of a control byte, whatever its bits 5:0 (R68, R92). -/
def controlResult (control : Byte) : Result :=
  .control (controlAckReply control) (controlAckRequest control)

/-- DATA (R68). -/
def execCtlData (low : BitVec 6) (s : State) : Host.Outcome State Fault Refusal :=
  evaluate (.ok (controlResult (encodeControl 0b00#2 low))) s

/-- DATA_ACKREQ (R68). -/
def execCtlDataAckreq (low : BitVec 6) (s : State) : Host.Outcome State Fault Refusal :=
  evaluate (.ok (controlResult (encodeControl 0b01#2 low))) s

/-- ACK (R68). -/
def execCtlAck (low : BitVec 6) (s : State) : Host.Outcome State Fault Refusal :=
  evaluate (.ok (controlResult (encodeControl 0b10#2 low))) s

/-- ACK_ACKREQ (R68). -/
def execCtlAckAckreq (low : BitVec 6) (s : State) : Host.Outcome State Fault Refusal :=
  evaluate (.ok (controlResult (encodeControl 0b11#2 low))) s

end Sys2Proof.Machine
end

