-- ==== Sys2Proof/Machine/ConfigOps.lean ====
section
/-! DEFINITION. Configuration operations and Encryptor: INITIALIZE, SET_ADDRESS, SET_POWER_LEVEL, PROMISCUOUS,
SET_ENCRYPTION_KEY (spec 45_config_ops.md), and the two unassigned opcodes (R76). -/

namespace Sys2Proof.Machine

/-- INITIALIZE(band, nodeId, networkId) (R130): the one command admitted before INITIALIZE (R76). -/
def execInitBlock (band nodeId networkId : Byte) (s : State) : Host.Outcome State Fault Refusal :=
  if s.faulted then .fault .oversizeFrame
  else if !s.idle then .refused .commandInFlight
  else launch (initBlock band nodeId networkId) s.closeWindow

/-- SET_ADDRESS(addr) (R131). -/
def execSetAddress (addr : Byte) (s : State) : Host.Outcome State Fault Refusal :=
  command none [.putLocalAddress addr, .finish false] s

/-- SET_POWER_LEVEL(level) (R132): refused above 31. -/
def execSetPowerLevel (level : Byte) (s : State) : Host.Outcome State Fault Refusal :=
  command (if levelInRange level then none else some .powerLevelRange)
    (setPowerLevel s.cfg (level.setWidth 5) ++ [.finish false]) s

/-- PROMISCUOUS(on) (R133). -/
def execPromiscuous (on : Bool) (s : State) : Host.Outcome State Fault Refusal :=
  command none [.putPromiscuous on, .finish false] s

/-- SET_ENCRYPTION_KEY(key) (R134): refused when a key has not 16 bytes. -/
def execSetEncryptionKey (key : Option (List Byte)) (s : State) : Host.Outcome State Fault Refusal :=
  command (if keyLengthOk key then none else some .keyLength)
    (setEncryptionKey s.cfg key ++ [.finish false]) s

/-- The unassigned opcode 0xE: refused in every state (R76). -/
def execCmdUnassignedE (_s : State) : Host.Outcome State Fault Refusal :=
  .refused (.unassignedOpcode 0xE)

/-- The unassigned opcode 0xF: refused in every state (R76). -/
def execCmdUnassignedF (_s : State) : Host.Outcome State Fault Refusal :=
  .refused (.unassignedOpcode 0xF)

end Sys2Proof.Machine
end

