-- ==== Sys2Proof/Machine/Csma.lean ====
section
/-! DEFINITION. CsmaGate: CAN_SEND (spec 43_csma_gate.md). -/

namespace Sys2Proof.Machine

/-- CAN_SEND (R110 to R112). -/
def execCanSend (s : State) : Host.Outcome State Fault Refusal :=
  command none [.canSendMode, .finish true] s

end Sys2Proof.Machine
end

