-- ==== Sys2Proof/Machine/Mode.lean ====
section
/-! DEFINITION. TransceiverStateMachine: SET_MODE (spec 40_mode_state_machine.md). -/

namespace Sys2Proof.Machine

/-- SET_MODE(t) (R80 to R83). SET_MODE(3) closes the reading window (R104). -/
def execSetMode (t : BitVec 3) (s : State) : Host.Outcome State Fault Refusal :=
  command none [.setMode t, .finish false] (if t = 3 then s.closeWindow else s)

end Sys2Proof.Machine
end

