-- ==== Sys2Proof/Machine/Receive.lean ====
section
/-! DEFINITION. ReceivePipeline: ON_READY_EDGE, RECEIVE_BEGIN, RECEIVE_DONE (spec 42_receive_pipeline.md). -/

namespace Sys2Proof.Machine

/-- ON_READY_EDGE (R100, R101, R106, R145, R148): the event of a ready-line edge, with the interrupt context run whole
when delivery is enabled. -/
def execOnReadyEdge (s : State) : Host.Outcome State Fault Refusal :=
  readyEdge s

/-- RECEIVE_BEGIN (R102): as a command, inside a critical section. -/
def execReceiveBegin (s : State) : Host.Outcome State Fault Refusal :=
  command none (critical (receiveBegin s.cfg) ++ [.finish false]) s.closeWindow

/-- RECEIVE_DONE (R103); a frame found opens the reading window (R104). -/
def execReceiveDone (s : State) : Host.Outcome State Fault Refusal :=
  command none (receiveDone ++ [.openWindow, .finish true]) s.closeWindow

end Sys2Proof.Machine
end

