-- ==== Sys2Proof/Machine/Sender.lean ====
section
/-! DEFINITION. ReliableSender: SEND, SEND_FRAME, SEND_WITH_RETRY, ACK_RECEIVED, SEND_ACK (spec 44_sender.md). -/

namespace Sys2Proof.Machine

/-- SEND(t, p, requestAck) (R115). -/
def execSend (target : Byte) (payload : List Byte) (requestAck : Bool) (s : State) :
    Host.Outcome State Fault Refusal :=
  command none (send s.cfg target payload requestAck ++ [.finish false]) s

/-- SEND_FRAME(t, p, requestAck, sendAck) (R116): refused when both flags are set. -/
def execSendFrame (target : Byte) (payload : List Byte) (requestAck sendAck : Bool) (s : State) :
    Host.Outcome State Fault Refusal :=
  command (if ackFlagsOk requestAck sendAck then none else some .bothAckFlags)
    (sendFrame s.cfg target payload requestAck sendAck ++ [.finish false]) s

/-- SEND_WITH_RETRY(t, p, retries, timeoutMs) (R120); it closes the reading window, and only a matching acknowledgement
opens it again (R104, R144). -/
def execSendWithRetry (target : Byte) (payload : List Byte) (retries : Byte) (timeoutMs : BitVec 16) (s : State) :
    Host.Outcome State Fault Refusal :=
  command none
    [.retryLoop ⟨attemptsOf retries, timeoutMs, target, payload⟩, .finish true] s.closeWindow

/-- ACK_RECEIVED(from) (R121); its poll closes the reading window and opens it again on a frame (R104). -/
def execAckReceived (fromAddress : Byte) (s : State) : Host.Outcome State Fault Refusal :=
  command none (ackReceived fromAddress ++ [.finish true]) s.closeWindow

/-- SEND_ACK(p) (R122). -/
def execSendAck (payload : List Byte) (s : State) : Host.Outcome State Fault Refusal :=
  command none [.captureSender payload, .finish false] s

end Sys2Proof.Machine
end

