-- ==== Sys2Proof/Machine/Dispatch.lean ====
section
/-! DEFINITION. The dispatch: one arm per constructor of `Instr`, one direct call of its meaning. -/

namespace Sys2Proof.Machine

def exec (i : Instr) (s : State) : Host.Outcome State Fault Refusal :=
  match i with
  | .initBlock band nodeId networkId => Sys2Proof.Machine.execInitBlock band nodeId networkId s
  | .setAddress addr => Sys2Proof.Machine.execSetAddress addr s
  | .setPowerLevel level => Sys2Proof.Machine.execSetPowerLevel level s
  | .promiscuous on => Sys2Proof.Machine.execPromiscuous on s
  | .send target payload requestAck => Sys2Proof.Machine.execSend target payload requestAck s
  | .sendWithRetry target payload retries timeoutMs => Sys2Proof.Machine.execSendWithRetry target payload retries timeoutMs s
  | .receiveDone => Sys2Proof.Machine.execReceiveDone s
  | .ackReceived fromAddress => Sys2Proof.Machine.execAckReceived fromAddress s
  | .sendAck payload => Sys2Proof.Machine.execSendAck payload s
  | .setEncryptionKey key => Sys2Proof.Machine.execSetEncryptionKey key s
  | .setMode mode => Sys2Proof.Machine.execSetMode mode s
  | .canSend => Sys2Proof.Machine.execCanSend s
  | .receiveBegin => Sys2Proof.Machine.execReceiveBegin s
  | .sendFrame target payload requestAck sendAck => Sys2Proof.Machine.execSendFrame target payload requestAck sendAck s
  | .cmdUnassignedE => Sys2Proof.Machine.execCmdUnassignedE s
  | .cmdUnassignedF => Sys2Proof.Machine.execCmdUnassignedF s
  | .onReadyEdge => Sys2Proof.Machine.execOnReadyEdge s
  | .frameHeader length target sender ackReply ackRequest => Sys2Proof.Machine.execFrameHeader length target sender ackReply ackRequest s
  | .encode target control payload => Sys2Proof.Machine.execEncode target control payload s
  | .decode bytes => Sys2Proof.Machine.execDecode bytes s
  | .filter target => Sys2Proof.Machine.execFilter target s
  | .ctlData low => Sys2Proof.Machine.execCtlData low s
  | .ctlDataAckreq low => Sys2Proof.Machine.execCtlDataAckreq low s
  | .ctlAck low => Sys2Proof.Machine.execCtlAck low s
  | .ctlAckAckreq low => Sys2Proof.Machine.execCtlAckAckreq low s

end Sys2Proof.Machine
end

