-- ==== Sys2Proof/Machine/Fetch.lean ====
section
/-! DEFINITION. How a step finds what to run (R13, R70, R146, R160, R174): an operation in flight goes on; an idle block
meets one boundary, where an interrupt may be taken, and then accepts the next presented request. -/

namespace Sys2Proof.Machine

/-- What a step does next. -/
inductive Activity where
  /-- The state is faulted and has no meaning (R106). -/
  | dead
  /-- An operation in flight, or the interrupt context, goes on (R13). -/
  | resume (s : State)
  /-- Nothing is presented: the block waits (R160). -/
  | wait (s : State)
  /-- A presented request is accepted; it has left the port (R70). -/
  | accept (r : Request) (s : State)

/-- What a step does next in a state. -/
def State.activity (s : State) : Activity :=
  if s.faulted then .dead
  else if !s.idle then .resume s
  else if !s.boundary.idle then .resume s.boundary
  else match s.boundary.port with
    | [] => .wait s.boundary
    | r :: rest => .accept r { s.boundary with port := rest }

/-- The state with a request presented so that the very next step accepts it: nothing in flight, no interrupt to take
first, the request at the head of the port (log entry 13). -/
def State.present (s : State) (r : Request) : State :=
  { s with
    foreground := []
    handler := []
    irqPending := false
    env := { s.env with boundaries := [] }
    port := r :: s.port }

end Sys2Proof.Machine
end

