-- ==== Sys2Proof/Machine/Step.lean ====
section
/-! DEFINITION. The step, and the host's way of presenting a word of the opcode table to it. -/

namespace Sys2Proof.Machine

/-- One step: a faulted state has none (R106); an operation in flight is resumed; an idle block accepts and runs the next
presented request, or waits. -/
def step (s : State) : Host.Outcome State Fault Refusal :=
  match s.activity with
  | .dead => .fault .oversizeFrame
  | .resume s1 => drive (stepBudget s1.cfg) s1
  | .wait s1 => .next s1
  | .accept r s1 =>
    match decode r with
    | .ok i => exec i s1
    | .error e => .refused (.undecodable e)

/-- The state with the instruction of a table word presented to the next step. -/
def State.withFetchWord (s : State) (nbits w : Nat) : State :=
  s.present (tableRequest nbits w)

end Sys2Proof.Machine
end

