-- ==== Sys2Proof/Safety.lean ====
section
/-! DEFINITION. What claims are stated in: a state with a meaning (R155), the end of a run (R173), a quiet environment,
a block ready for a command (R161), the transactions an operation is expected to make (R48, R53, R56), and the invariants
of the block. -/

namespace Sys2Proof.Machine

/-! ### Premises -/

/-- The end of a run: no presented command is left and none is in flight, so the last one has returned its result; no
interrupt is both pending and enabled; not faulted (R173). -/
abbrev State.runEnded (s : State) : Prop :=
  s.port = [] ∧ s.idle = true ∧ (s.irqPending && s.irqEnabled) = false ∧ s.faulted = false

/-- No interrupt can be taken: none is pending and no edge is scheduled (log entry 4). -/
abbrev State.quiet (s : State) : Prop :=
  s.env.boundaries = [] ∧ s.irqPending = false

/-- The block can accept a request and no interrupt cuts in: idle, not faulted, quiet. -/
abbrev State.accepting (s : State) : Prop :=
  s.faulted = false ∧ s.foreground = [] ∧ s.handler = [] ∧ s.quiet

/-- The block can run any command: accepting, and INITIALIZE has run (R161 (1)). -/
abbrev State.ready (s : State) : Prop :=
  s.accepting ∧ s.initialized = true

/-! ### Answers to come and transactions made -/

/-- The RegRead answer that comes after `k` others. -/
def State.readAt (s : State) (k : Nat) : Byte :=
  s.env.reads.answerAt Config.freeRead k

/-- The ready-line level that comes after `k` others. -/
def State.lineAt (s : State) (k : Nat) : Bool :=
  s.env.line.answerAt Config.freeLine k

/-- The state after the listed transactions, which took the next `k` RegRead answers. -/
def State.io (s : State) (events : List BusEvent) (k : Nat) : State :=
  { s with trace := s.trace ++ events, env := { s.env with reads := s.env.reads.drop k } }

/-- The state after `k` polls of the ready line. -/
def State.polledLine (s : State) (k : Nat) : State :=
  { s with env := { s.env with line := s.env.line.drop k } }

/-- A `RegRead` in the event history. -/
def rd (ctx : Context) (a : Addr) (answer : Byte) : BusEvent :=
  ⟨ctx, .read a answer⟩

/-- A `RegWrite` in the event history. -/
def wr (ctx : Context) (a : Addr) (v : Byte) : BusEvent :=
  ⟨ctx, .write a v⟩

/-- The two transactions of a read-modify-write that is answered `old` (R75 (f)). -/
def rmwEvents (ctx : Context) (a : Addr) (mask value old : Byte) : List BusEvent :=
  [rd ctx a old, wr ctx a ((old &&& ~~~mask) ||| value)]

/-- The two transactions of a restart write that is answered `old` (R115, D27). -/
def restartEvents (ctx : Context) (c : Cfg) (old : Byte) : List BusEvent :=
  [rd ctx c.regmap.aPktcfg old, wr ctx c.regmap.aPktcfg (old ||| c.regmap.bRestartRx)]

/-- W and P of R81's table: the mode read-modify-write and the tuning writes of an entry into mode `m`. -/
def modeEvents (ctx : Context) (c : Cfg) (m : RadioMode) (old : Byte) : List BusEvent :=
  rmwEvents ctx c.regmap.aOpmode c.regmap.mMode (c.regmap.vMode m) old
    ++ (tuningList c m).map (fun p => wr ctx p.1 p.2)

/-- How long a wait may last in a statement about one step; a longer one is resumed by the next step. -/
def pollBound : Nat := 100000

/-- From mode `origin`, the mode-ready wait ends at its `n + 1`st status read, the answers of the wait starting after
`pos` others. No wait runs unless the origin is Sleep (R80 corner case (ii), R167). -/
abbrev State.wakes (s : State) (origin : RadioMode) (pos n : Nat) : Prop :=
  origin = .sleep → n ≤ pollBound
    ∧ (∀ k < n, s.readAt (pos + k) &&& s.cfg.regmap.bModeReady = 0)
    ∧ s.readAt (pos + n) &&& s.cfg.regmap.bModeReady ≠ 0

/-- How many status reads the wait makes (R80 corner case (v)). -/
def wakeReads (origin : RadioMode) (n : Nat) : Nat :=
  if origin = .sleep then n + 1 else 0

/-- R of R81's table: the status reads of the mode-ready wait. -/
def State.wakeEvents (s : State) (ctx : Context) (origin : RadioMode) (pos n : Nat) : List BusEvent :=
  (List.range (wakeReads origin n)).map (fun k => rd ctx s.cfg.regmap.aIrq1 (s.readAt (pos + k)))

/-- How many answers a `SetMode` takes. -/
def setModeReads (origin target : RadioMode) (n : Nat) : Nat :=
  if origin = target then 0 else 1 + wakeReads origin n

/-- The transactions of a `SetMode` from `origin` to `target` whose first answer comes after `pos` others (R80, R81). -/
def State.setModeEvents (s : State) (ctx : Context) (origin target : RadioMode) (pos n : Nat) : List BusEvent :=
  if origin = target then []
  else modeEvents ctx s.cfg target (s.readAt pos) ++ s.wakeEvents ctx origin (pos + 1) n

/-- The re-arm finds the payload-ready condition stale (R102 line 2). -/
def State.staleAt (s : State) (pos : Nat) : Bool :=
  s.readAt pos &&& s.cfg.regmap.bPayloadReady != 0

/-- How many answers `ReceiveBegin` takes before its `SetMode(3)`. -/
def State.rearmStatusReads (s : State) (pos : Nat) : Nat :=
  if s.staleAt pos then 2 else 1

/-- How many answers a `ReceiveBegin` from `origin` takes. -/
def State.rearmReads (s : State) (origin : RadioMode) (pos n : Nat) : Nat :=
  s.rearmStatusReads pos + setModeReads origin .receive n

/-- The transactions of a `ReceiveBegin` from `origin` whose first answer comes after `pos` others (R102). -/
def State.rearmEvents (s : State) (ctx : Context) (origin : RadioMode) (pos n : Nat) : List BusEvent :=
  rd ctx s.cfg.regmap.aIrq2 (s.readAt pos)
    :: (if s.staleAt pos then restartEvents ctx s.cfg (s.readAt (pos + 1)) else [])
    ++ wr ctx s.cfg.regmap.aDiomap s.cfg.regmap.vDioRx
    :: s.setModeEvents ctx origin .receive (pos + s.rearmStatusReads pos) n

/-- The transactions of a frame's transmission from Standby, `SendFrame` lines 3 to 11 (R116), the two mode reads coming
after `pos` other answers. -/
def State.transmitEvents (s : State) (frame : List Byte) (pos : Nat) : List BusEvent :=
  wr .fg s.cfg.regmap.aDiomap s.cfg.regmap.vDioTx
    :: frame.map (fun b => wr .fg s.cfg.regmap.aFifo b)
    ++ modeEvents .fg s.cfg .transmit (s.readAt pos)
    ++ modeEvents .fg s.cfg .standby (s.readAt (pos + 1))

/-- The transmit-complete wait ends at its `n + 1`st poll, the polls starting after `pos` others (R119). -/
abbrev State.completes (s : State) (pos n : Nat) : Prop :=
  n ≤ pollBound ∧ (∀ k < n, s.lineAt (pos + k) = false) ∧ s.lineAt (pos + n) = true

/-- The bytes the FIFO yields after `pos` other answers (R100 line 11). -/
def State.fifoBytes (s : State) (pos len : Nat) : List Byte :=
  (List.range len).map (fun i => s.readAt (pos + i))

/-- A payload buffer with bytes stored from an index on, ascending (R24 (a)). -/
def Memory.fillFrom : Memory → Nat → List Byte → Memory
  | m, _, [] => m
  | m, i, b :: bytes => Memory.fillFrom (Memory.write m i b) (i + 1) bytes

/-- A payload buffer with bytes stored from index 0 on (R24 (a), R100 line 11). -/
def Memory.fill (m : Memory) (bytes : List Byte) : Memory :=
  Memory.fillFrom m 0 bytes

/-- Every slot scalar at zero or false, the payload bytes left: what "clears the slot state" leaves (R102, D31). -/
def Slot.cleared (sl : Slot) : Slot where
  pendingLength := 0
  payloadLength := 0
  targetAddress := 0
  senderAddress := 0
  ackRequest := false
  ackReply := false
  payload := sl.payload
  rssi := 0

/-! ### Sending -/

/-- `CanSend` grants at once, or after one poll has taken a pending frame: Standby, or Receive with a frame pending or
with a measurement below the limit (R110, R113). -/
abbrev State.grants (s : State) : Prop :=
  s.mode = .standby
    ∨ s.mode = .receive ∧ (s.slot.pendingLength ≠ 0 ∨ s.rssiAnswer.toInt < s.cfg.csmaLimit.toInt)

/-- The transactions of a spin loop that grants so, its first answer coming after `pos` others. -/
def State.grantEvents (s : State) (pos : Nat) : List BusEvent :=
  if s.mode = .standby then [] else modeEvents .fg s.cfg .standby (s.readAt pos)

/-- How many answers such a spin loop takes. -/
def State.grantReads (s : State) : Nat :=
  if s.mode = .standby then 0 else 1

/-- The state with the measurement of such a spin loop taken: one in Receive with no frame pending, else none. -/
def State.measured (s : State) : State :=
  if s.mode = .receive ∧ s.slot.pendingLength = 0 then s.drawRssi else s

/-- The transactions of the `k + 1`st attempt of a SEND_WITH_RETRY from Standby: the restart write and the frame
(R115, R116, R120). Each attempt takes three answers. -/
def State.attemptEvents (s : State) (frame : List Byte) (k : Nat) : List BusEvent :=
  restartEvents .fg s.cfg (s.readAt (3 * k)) ++ s.transmitEvents frame (3 * k + 1)

/-- The reading of the time base that comes after `k` others. -/
def State.nowAt (s : State) (k : Nat) : Millis :=
  s.env.clock.answerAt Config.freeNow k

/-- The state in which a `ReceiveDone` that finds no frame leaves the block, from any mode but Sleep (R103). -/
def State.rearmed (s : State) : State :=
  { s.io (s.rearmEvents .fg s.mode 0 0) (s.rearmReads s.mode 0 0) with
    slot := s.slot.cleared, window := false, mode := .receive, flag := false }

/-- The state after the `Send` of a frame where the gate grants and the transmission is complete at the first poll
(R115, R116). -/
def State.sent (s : State) (frame : List Byte) : State :=
  { (s.measured.io
      (restartEvents .fg s.cfg (s.readAt 0) ++ s.grantEvents 1 ++ s.transmitEvents frame (1 + s.grantReads))
      (s.grantReads + 3)).polledLine 1 with
    mode := .standby, flag := true }

/-- The state after `n` window tests that hold, each with its poll that finds no frame (R120 lines 5 and 6). -/
def State.polled : Nat → State → State
  | 0, s => s
  | n + 1, s => State.polled n s.drawNow.rearmed

/-- The window that starts at the next reading of the time base holds for exactly `n` tests, on the elapsed time modulo
2^32, strictly (R120 lines 4 and 5, R75 (i)). -/
abbrev State.windowLasts (s : State) (timeout : BitVec 16) (n : Nat) : Prop :=
  (∀ k < n, (s.nowAt (k + 1) - s.nowAt 0).toNat < timeout.toNat)
    ∧ timeout.toNat ≤ (s.nowAt (n + 1) - s.nowAt 0).toNat

/-- The state after an attempt of SEND_WITH_RETRY whose window holds for `n` polls that find no frame (R120). -/
def State.attempted (s : State) (frame : List Byte) (n : Nat) : State :=
  ((s.sent frame).drawNow.polled n).drawNow

/-- How many polls the windows of a SEND_WITH_RETRY may hold together in a statement about one step; a longer run is
resumed by the next step. -/
def retryPollBound : Nat := 10000

/-- Each attempt is granted, sent, and without an answer: the list gives for each how many polls its window holds. -/
def State.attemptsFail (frame : List Byte) (timeout : BitVec 16) : List Nat → State → Prop
  | [], _ => True
  | n :: ns, s =>
    s.grants ∧ s.lineAt 0 = true ∧ s.windowLasts timeout n ∧ State.attemptsFail frame timeout ns (s.attempted frame n)

/-- The state after such attempts. -/
def State.afterAttempts (frame : List Byte) : List Nat → State → State
  | [], s => s
  | n :: ns, s => State.afterAttempts frame ns (s.attempted frame n)

/-! ### Ownership and isolation -/

/-- The commands that are admitted only after INITIALIZE (R76). -/
def needsInit : Instr → Bool
  | .setAddress _ | .setPowerLevel _ | .promiscuous _ | .send _ _ _ | .sendWithRetry _ _ _ _ | .receiveDone
  | .ackReceived _ | .sendAck _ | .setEncryptionKey _ | .setMode _ | .canSend | .receiveBegin
  | .sendFrame _ _ _ _ => true
  | .initBlock _ _ _ | .cmdUnassignedE | .cmdUnassignedF | .onReadyEdge | .frameHeader _ _ _ _ _ | .encode _ _ _
  | .decode _ | .filter _ | .ctlData _ | .ctlDataAckreq _ | .ctlAck _ | .ctlAckAckreq _ => false

/-- The positions of ON_READY_EDGE itself, which only the interrupt context has (R10 (b), R19). -/
def Micro.drains : Micro → Bool
  | .edgeGuard | .edgeStatus | .popLength | .popTarget _ | .applyFilter _ _ | .popSender _ _ | .popControl _ _ _
  | .popPayload _ | .storeFrame _ _ _ _ | .sampleRssi | .raiseOversize | .irqReturn => true
  | _ => false

/-- Not on the way to Sleep or FrequencySynthesis (R85, R154). -/
def Micro.staysAwake : Micro → Bool
  | .setMode t => t != 0 && t != 2
  | .storeMode m => m != .sleep && m != .frequencySynthesis
  | _ => true

/-- Closes the reading window: writes the slot's pending length (R104, log entry 7). -/
def Micro.closesWindow : Micro → Bool
  | .clearField f => f.empties
  | .storeFrame _ _ _ _ => true
  | _ => false

/-- Clears a part of the slot (R102 line 1). -/
def Micro.clears : Micro → Bool
  | .clearField _ => true
  | _ => false

/-- Opens the reading window, or belongs to SEND_WITH_RETRY, whose match opens it (R104, log entry 7). -/
def Micro.mayOpen : Micro → Bool
  | .openWindow | .retryLoop _ | .startWindow _ | .windowTest _ _ | .windowPoll _ _ => true
  | _ => false

/-- Neither writes the slot nor leads to Receive, where ON_READY_EDGE may write it (R19, R104). -/
def Micro.leavesSlot : Micro → Bool
  | .setMode t => t != 3
  | .storeMode m => m != .receive
  | .clearField _ => false
  | m => !m.drains

/-- A rest of an operation that leaves the slot alone, at least until it has closed the reading window. -/
def calm : List Micro → Bool
  | [] => true
  | m :: rest => m.closesWindow || m.leavesSlot && calm rest

/-- A program in which what follows an opening of the reading window is calm. -/
def opensCalmly : List Micro → Bool
  | [] => true
  | m :: rest => (!m.mayOpen || calm rest) && opensCalmly rest

/-- The state without the fields that no rule reads: the network identifier (R15), the power level (R16), the slot's
length of payload, target, acknowledgement request, payload and signal strength, which only the host reads (R104, R122
corner case (iv)), the event history (R56) and the result handed to the host (R70). -/
def State.readable (s : State) : State :=
  { s with
    networkId := none
    powerLevel := none
    slot := { s.slot with
      payloadLength := 0, targetAddress := 0, ackRequest := false, payload := [], rssi := 0 }
    trace := []
    result := none }

/-- Two outcomes agree: both stop with the same reason, or both go on to states that agree in what rules read. -/
def sameOutcome : Host.Outcome State Fault Refusal → Host.Outcome State Fault Refusal → Prop
  | .next s, .next t => s.readable = t.readable
  | .fault f, .fault g => f = g
  | .refused r, .refused q => r = q
  | _, _ => False

/-! ### Invariants -/

/-- A length byte `L` carried by a position of the drain lies in 3..64, and a payload index in 0..60. -/
def Micro.bounded : Micro → Bool
  | .popTarget l => 3 ≤ l.toNat && l.toNat ≤ 64
  | .applyFilter l _ => 3 ≤ l.toNat && l.toNat ≤ 64
  | .popSender l _ => 3 ≤ l.toNat && l.toNat ≤ 64
  | .popControl l _ _ => 3 ≤ l.toNat && l.toNat ≤ 64
  | .popPayload i => i ≤ 60
  | .storeFrame l _ _ _ => 3 ≤ l.toNat && l.toNat ≤ 64
  | _ => true

/-- Every index below `n` holds a byte. -/
def Memory.holds (m : Memory) (n : Nat) : Bool :=
  (List.range n).all (fun i => (Memory.read m i).isSome)

/-- A payload buffer in which the positions of a context find the bytes they need: `OnReadyEdge` line 12 stores a frame
only where line 11 has written its payload (R100). -/
def fillsPayload : Memory → List Micro → Bool
  | _, [] => true
  | m, .popPayload i :: rest => fillsPayload (Memory.write m i 0) rest
  | m, .storeFrame length _ _ _ :: rest => m.holds (length.toNat - 3) && fillsPayload m rest
  | m, _ :: rest => fillsPayload m rest

/-- The slot's lengths (R18): no frame, or a pending length 3..64 that is 3 more than the payload length; a payload
length 0..61, each of its bytes held. -/
abbrev Slot.lengthsOk (sl : Slot) : Prop :=
  (sl.pendingLength = 0 ∨ 3 ≤ sl.pendingLength.toNat ∧ sl.pendingLength.toNat ≤ 64
      ∧ sl.pendingLength = 3 + sl.payloadLength)
    ∧ sl.payloadLength.toNat ≤ 61 ∧ sl.payload.holds sl.payloadLength.toNat = true

/-- The payload buffer keeps its canonical form, the slot's lengths agree with it, and so do the lengths and indices the
positions in flight carry. -/
abbrev State.slotInv (s : State) : Prop :=
  Memory.wf s.slot.payload = true ∧ s.slot.lengthsOk
    ∧ s.foreground.all Micro.bounded = true ∧ s.handler.all Micro.bounded = true
    ∧ fillsPayload s.slot.payload s.foreground = true ∧ fillsPayload s.slot.payload s.handler = true

/-- Neither in Sleep nor in FrequencySynthesis, and nothing in flight on the way there (R85, R154). -/
abbrev State.awake (s : State) : Prop :=
  s.mode ≠ .sleep ∧ s.mode ≠ .frequencySynthesis
    ∧ s.foreground.all Micro.staysAwake = true ∧ s.handler.all Micro.staysAwake = true

/-- The reading window (R104): while it is open, the mode is not Receive, ON_READY_EDGE is not past its mode guard, and
the rest of the operation in flight is calm; and only a calm rest follows an opening. -/
abbrev State.windowInv (s : State) : Prop :=
  opensCalmly s.foreground = true ∧ s.handler.all (fun m => !m.mayOpen) = true
    ∧ (s.window = true →
        s.mode ≠ .receive ∧ s.handler.all (fun m => m == .edgeGuard || m == .irqReturn) = true
          ∧ calm s.foreground = true)

/-- How a position changes the number of open critical sections; `receiveTest` stands for a rest of RECEIVE_DONE that
closes one (R103). -/
def Micro.nesting : Micro → Int
  | .enterCritical => 1
  | .exitCritical => -1
  | .receiveTest => -1
  | _ => 0

/-- A program that closes exactly `d` critical sections more than it opens, and never more than are open. -/
def closesAll : Nat → List Micro → Bool
  | d, [] => d == 0
  | d, m :: rest => 0 ≤ d + m.nesting && closesAll (d + m.nesting).toNat rest

/-- Critical sections and the enable agree (R47, R145, R149): while the interrupt context runs, delivery is off, the
foreground has no section open, and every section restores "off"; otherwise delivery is on exactly outside the
foreground's sections, the outermost of which restores "on". The foreground holds no position of ON_READY_EDGE (R10). -/
abbrev State.disciplined (s : State) : Prop :=
  (∀ m ∈ s.foreground, m.drains = false) ∧
  (if s.handler = [] then
    closesAll s.saved.length s.foreground = true
      ∧ s.irqEnabled = s.saved.isEmpty
      ∧ s.saved = (List.replicate s.saved.length false).dropLast ++ List.replicate (min 1 s.saved.length) true
  else
    s.irqEnabled = false
      ∧ closesAll 0 s.foreground = true
      ∧ closesAll s.saved.length s.handler = true
      ∧ s.saved = List.replicate s.saved.length false
      ∧ s.handler.getLast? = some .irqReturn
      ∧ ∀ m ∈ s.handler.dropLast, m ≠ .irqReturn)

/-- A program that, with `d` critical sections open, clears the slot only inside one: "while interrupts are suppressed"
(R19). -/
def clearsSuppressed : Nat → List Micro → Bool
  | _, [] => true
  | d, m :: rest => (0 < d || !m.clears) && clearsSuppressed (d + m.nesting).toNat rest

/-- The foreground clears the slot only inside a critical section of its own (R19): what INITIALIZE alone does not keep
(R130, R135). -/
abbrev State.clearsInside (s : State) : Prop :=
  clearsSuppressed (if s.handler = [] then s.saved.length else 0) s.foreground = true

end Sys2Proof.Machine
end

