-- ==== Sys2Proof/Certificates/Slice0/Obligations.lean ====
section
/-! DEFINITION. The statements for the provers: reset and the step, the codec, the configuration commands, the mode
machine, the receive pipeline, the gate and the sender, the interrupt, the invariants of the block and the rules of the
whole machine. A statement about a command takes a block that is ready for it and an environment in which no interrupt
cuts in (`State.ready`); what interrupts may do is stated position by position and by the invariants. -/

open Sys2Proof Sys2Proof.Machine

/-! ### Reset, decoding and the step -/

/-- R160, R37 (the spec's decision D22): the values after reset, whatever the configuration; the block then waits for a
command, and an edge does nothing. -/
def Obligations.ResetLeavesTheTable : Prop :=
  ∀ c : Cfg,
    let s := State.resetWith c
    s.mode = .standby ∧ s.localAddress = none ∧ s.networkId = none ∧ s.promiscuous = false ∧ s.powerLevel = none
      ∧ s.slot.pendingLength = 0 ∧ s.slot.payloadLength = 0 ∧ s.slot.targetAddress = 0 ∧ s.slot.senderAddress = 0
      ∧ s.slot.ackRequest = false ∧ s.slot.ackReply = false ∧ s.slot.rssi = 0
      ∧ (∀ i, Memory.read s.slot.payload i = none)
      ∧ s.irqEnabled = true ∧ s.irqPending = false ∧ s.initialized = false ∧ s.faulted = false
      ∧ s.idle = true ∧ step s = .next s ∧ exec .onReadyEdge s = .next s

/-- Words of the opcode table, written out from R71, R60 and R68, decode to the instructions they stand for. The model's
choices in it: a bare word below 0x10 is read as an opcode and one above as a control byte (log entry 9), the low six
bits of a header's control byte are ignored (log entry 26; the spec's decision D13), and an event request whose bit is 0
is rejected (log entry 18). -/
def Obligations.TableWordsDecode : Prop :=
  decodeTableWord 8 0x00 = some (.initBlock 0 0 0)
    ∧ decodeTableWord 8 0x06 = some .receiveDone
    ∧ decodeTableWord 8 0x0A = some (.setMode 0)
    ∧ decodeTableWord 8 0x0D = some (.sendFrame 0 [] false false)
    ∧ decodeTableWord 8 0x0F = some .cmdUnassignedF
    ∧ decodeTableWord 8 0x40 = some (.ctlDataAckreq 0)
    ∧ decodeTableWord 8 0x85 = some (.ctlAck 5)
    ∧ decodeTableWord 8 0xC1 = some (.ctlAckAckreq 1)
    ∧ decodeTableWord 32 0x06090540 = some (.frameHeader 6 9 5 false true)
    ∧ decodeTableWord 32 0x030509BF = some (.frameHeader 3 5 9 true false)
    ∧ decode (.event 1) = .ok .onReadyEdge
    ∧ decode (.event 0) = .error .noInterruptRequest

/-- What a step does: an operation in flight goes on (R13), an idle block that meets no interrupt runs the instruction
of the presented request (R70), or waits (R160). That a step runs an operation for `stepBudget` micro-steps is the model's
choice (log entry 1), and so is the queue of requests (log entry 13). -/
def Obligations.StepRunsDecodedInstruction : Prop :=
  ∀ s : State, s.faulted = false →
    (s.idle = false → step s = drive (stepBudget s.cfg) s)
      ∧ (s.idle = true → s.boundary.idle = false → step s = drive (stepBudget s.cfg) s.boundary)
      ∧ (s.idle = true → s.boundary.idle = true → s.boundary.port = [] → step s = .next s.boundary)
      ∧ (∀ r rest i, s.idle = true → s.boundary.idle = true → s.boundary.port = r :: rest → decode r = .ok i →
          step s = exec i { s.boundary with port := rest })
      ∧ (∀ r rest e, s.idle = true → s.boundary.idle = true → s.boundary.port = r :: rest → decode r = .error e →
          step s = .refused (.undecodable e))

/-- A word of the table that is presented with `withFetchWord` is what the very next step runs (R70; presenting is the
model's: log entry 13). -/
def Obligations.TableWordRunsNext : Prop :=
  ∀ (s : State) (nbits w : Nat) (i : Instr), s.faulted = false → decodeTableWord nbits w = some i →
    step (s.withFetchWord nbits w) =
      exec i { s with
        foreground := [], handler := [], irqPending := false, env := { s.env with boundaries := [] } }

/-- R106, R155, R173 (the spec's decision D12): a faulted state has no step and admits nothing, and it is no end of a
run; that this is a fault of every step is the model's (log entry 10). -/
def Obligations.FaultedStateHasNoMeaning : Prop :=
  ∀ s : State, s.faulted = true →
    step s = .fault .oversizeFrame ∧ ¬ s.runEnded
      ∧ ∀ i : Instr, i ≠ .cmdUnassignedE → i ≠ .cmdUnassignedF → exec i s = .fault .oversizeFrame

/-- R71, R60, R68: the request that encodes a well-formed instruction decodes to it, at every operand value. -/
def Obligations.InstructionRoundTrip : Prop :=
  ∀ i : Instr, i.wellFormed = true → decode (encode i) = .ok i

/-! ### The codec -/

/-- R90, R66: the bytes of an encoded frame. That the first 61 bytes of a longer payload are the ones kept is the spec's
decision D15 (R95). -/
def Obligations.EncodeFrameBytes : Prop :=
  ∀ (t s c : Byte) (p : List Byte),
    encodeFrame t s c p = BitVec.ofNat 8 (3 + min p.length 61) :: t :: s :: c :: p.take 61

/-- R91, R92: the three answers of `Decode`, by the length byte (Oversize is the spec's decision D12). -/
def Obligations.DecodeFrameCases : Prop :=
  ∀ (l t sn c : Byte) (rest : List Byte),
    (∀ b : List Byte, l.toNat < 3 → decodeFrame (l :: b) = .malformed)
      ∧ (∀ b : List Byte, 64 < l.toNat → decodeFrame (l :: b) = .oversize)
      ∧ (3 ≤ l.toNat → l.toNat ≤ 64 → l.toNat - 3 ≤ rest.length →
          decodeFrame (l :: t :: sn :: c :: rest) =
            .frame {
              pendingLength := l
              payloadLength := l - 3
              targetAddress := t
              senderAddress := sn
              ackReply := c.getLsbD 7
              ackRequest := c.getLsbD 6
              payload := rest.take (l.toNat - 3) })

/-- R94: a frame that was encoded decodes to what it was encoded from, for every payload of 0 to 61 bytes. That the
control byte comes back as its two flags alone is the spec's reading of its source (90_conflicts.md C6,
decision D13). -/
def Obligations.FrameRoundTrip : Prop :=
  ∀ (t s c : Byte) (p : List Byte), p.length ≤ 61 →
    decodeFrame (encodeFrame t s c p) =
      .frame {
        pendingLength := BitVec.ofNat 8 (3 + p.length)
        payloadLength := BitVec.ofNat 8 p.length
        targetAddress := t
        senderAddress := s
        ackReply := c.getLsbD 7
        ackRequest := c.getLsbD 6
        payload := p }

/-- R93: the truth table of the address filter. -/
def Obligations.FilterTruthTable : Prop :=
  ∀ (a t : Byte),
    (∀ local' : Option Byte, filterAccepts true local' t = some true)
      ∧ filterAccepts false (some a) t = some (decide (t = a ∨ t = 0))

/-- ENCODE answers the frame's bytes with the local address as sender, and changes nothing else (R90; as a request of
its own: log entry 8). -/
def Obligations.EncodeAnswers : Prop :=
  ∀ (s : State) (t c a : Byte) (p : List Byte), s.faulted = false → s.idle = true → s.localAddress = some a →
    exec (.encode t c p) s =
      .next { s with
        result := some (.bytes (BitVec.ofNat 8 (3 + min p.length 61) :: t :: a :: c :: p.take 61)) }

/-- DECODE answers what `Decode` gives, and changes nothing else (R91, log entry 8). -/
def Obligations.DecodeAnswers : Prop :=
  ∀ (s : State) (bytes : List Byte), s.faulted = false → s.idle = true →
    exec (.decode bytes) s = .next { s with result := some (.decoded (decodeFrame bytes)) }

/-- FILTER answers the truth table, and changes nothing else (R93, log entry 8). -/
def Obligations.FilterAnswers : Prop :=
  ∀ (s : State) (t : Byte), s.faulted = false → s.idle = true →
    (s.promiscuous = true → exec (.filter t) s = .next { s with result := some (.bool true) })
      ∧ ∀ a, s.promiscuous = false → s.localAddress = some a →
          exec (.filter t) s = .next { s with result := some (.bool (decide (t = a ∨ t = 0))) }

/-- FRAME_HEADER answers the header's fields, with the payload length of the lengths 3 to 64 (R60, R61, log entry 8). -/
def Obligations.FrameHeaderAnswers : Prop :=
  ∀ (s : State) (l t sn : Byte) (rp rq : Bool), s.faulted = false → s.idle = true →
    exec (.frameHeader l t sn rp rq) s =
      .next { s with
        result := some (.header {
          length := l
          targetAddress := t
          senderAddress := sn
          ackReply := rp
          ackRequest := rq
          payloadLength := if 3 ≤ l.toNat ∧ l.toNat ≤ 64 then some (l - 3) else none }) }

/-- R68: the four kinds of control byte and their two flags, whatever bits 5:0 hold; answered as requests of their own
(log entry 8). -/
def Obligations.ControlKindsAnswer : Prop :=
  ∀ (s : State) (low : BitVec 6), s.faulted = false → s.idle = true →
    exec (.ctlData low) s = .next { s with result := some (.control false false) }
      ∧ exec (.ctlDataAckreq low) s = .next { s with result := some (.control false true) }
      ∧ exec (.ctlAck low) s = .next { s with result := some (.control true false) }
      ∧ exec (.ctlAckAckreq low) s = .next { s with result := some (.control true true) }

/-! ### Admission -/

/-- R76 (the spec's decisions D14, D25, D32, D35): the unassigned opcodes are refused in every state; an idle block that
has not faulted refuses every other command but INITIALIZE before INITIALIZE, and operands out of their range. A refusal
carries no state: nothing changes. R76 names no order of its conditions: that a command which breaks two of them before
INITIALIZE is answered `notInitialized` is the model's choice (log entry 27). -/
def Obligations.CommandsRefused : Prop :=
  ∀ s : State,
    exec .cmdUnassignedE s = .refused (.unassignedOpcode 0xE)
      ∧ exec .cmdUnassignedF s = .refused (.unassignedOpcode 0xF)
      ∧ (s.faulted = false → s.idle = true →
        (∀ i : Instr, needsInit i = true → s.initialized = false → exec i s = .refused .notInitialized)
          ∧ (∀ level : Byte, 31 < level.toNat → s.initialized = true →
            exec (.setPowerLevel level) s = .refused .powerLevelRange)
          ∧ (∀ k : List Byte, k.length ≠ 16 → s.initialized = true →
            exec (.setEncryptionKey (some k)) s = .refused .keyLength)
          ∧ (∀ (t : Byte) (p : List Byte), s.initialized = true →
            exec (.sendFrame t p true true) s = .refused .bothAckFlags))

/-- R70, R174: while an operation is in flight no other command and no codec request is admitted (log entry 12). -/
def Obligations.OneCommandInFlight : Prop :=
  ∀ (s : State) (i : Instr), s.faulted = false → s.idle = false → i ≠ .onReadyEdge →
    i ≠ .cmdUnassignedE → i ≠ .cmdUnassignedF → exec i s = .refused .commandInFlight

/-! ### Configuration -/

/-- R130 (the spec's decision D23): INITIALIZE, the first time or again, with whatever result the configuration blob
gives; the reading window closes (log entry 7). -/
def Obligations.InitializeSetsIdentity : Prop :=
  ∀ (s : State) (band nodeId networkId : Byte) (n : Nat), s.accepting → s.wakes s.mode 1 n →
    exec (.initBlock band nodeId networkId) s =
      .next { s.drawBlob.io (s.setModeEvents .fg s.mode .standby 0 n) (setModeReads s.mode .standby n) with
        localAddress := some nodeId
        networkId := some networkId
        promiscuous := false
        slot := s.slot.cleared
        window := false
        mode := .standby
        initialized := true
        flag := s.blobAnswer band nodeId networkId
        result := some (.bool (s.blobAnswer band nodeId networkId)) }

/-- R131 (the spec's decision D24): SET_ADDRESS writes the local address and makes no transaction. -/
def Obligations.SetAddressWritesIdentity : Prop :=
  ∀ (s : State) (a : Byte), s.ready →
    exec (.setAddress a) s = .next { s with localAddress := some a, result := some .unit }

/-- R133 (the spec's decision D24): PROMISCUOUS writes the filter override and makes no transaction. -/
def Obligations.PromiscuousWritesFlag : Prop :=
  ∀ (s : State) (on : Bool), s.ready →
    exec (.promiscuous on) s = .next { s with promiscuous := on, result := some .unit }

/-- R132: SET_POWER_LEVEL up to 31 stores the level and writes the level field of its register; above 31 it is
refused. The register write is the spec's general knowledge (lines 3 to 6, decision D24; log entry 20). -/
def Obligations.SetPowerLevelWritesField : Prop :=
  ∀ (s : State) (level : Byte), s.ready →
    (level.toNat ≤ 31 →
      exec (.setPowerLevel level) s =
        .next { s.io (rmwEvents .fg s.cfg.regmap.aPalevel s.cfg.regmap.mPalevel level (s.readAt 0)) 1 with
          powerLevel := some (level.setWidth 5), result := some .unit })
      ∧ (31 < level.toNat → exec (.setPowerLevel level) s = .refused .powerLevelRange)

/-- R134: SET_ENCRYPTION_KEY forces Standby, writes the sixteen key bytes to ascending addresses or none, and sets or
clears the cipher bit alone; a key of another length is refused (the spec's decision D25). -/
def Obligations.SetEncryptionKeyLoadsKey : Prop :=
  ∀ (s : State) (n : Nat), s.ready → s.wakes s.mode 1 n →
    (∀ k : List Byte, k.length = 16 →
      exec (.setEncryptionKey (some k)) s =
        .next { s.io
            (s.setModeEvents .fg s.mode .standby 0 n
              ++ k.zipIdx.map (fun p => wr .fg (s.cfg.regmap.aKey0 + p.2) p.1)
              ++ rmwEvents .fg s.cfg.regmap.aCipher s.cfg.regmap.bCipherOn s.cfg.regmap.bCipherOn
                  (s.readAt (setModeReads s.mode .standby n)))
            (setModeReads s.mode .standby n + 1) with
          mode := .standby, result := some .unit })
      ∧ exec (.setEncryptionKey none) s =
        .next { s.io
            (s.setModeEvents .fg s.mode .standby 0 n
              ++ rmwEvents .fg s.cfg.regmap.aCipher s.cfg.regmap.bCipherOn 0
                  (s.readAt (setModeReads s.mode .standby n)))
            (setModeReads s.mode .standby n + 1) with
          mode := .standby, result := some .unit }
      ∧ ∀ k : List Byte, k.length ≠ 16 → exec (.setEncryptionKey (some k)) s = .refused .keyLength

/-! ### The mode machine -/

/-- R81: SET_MODE of a mode, for each of the 25 pairs of origin and target: the mode read-modify-write, the tuning
writes, the mode-ready wait, and the new mode; nothing for a self-pair (the spec derives the table from R80). The codes
are the spec's decision D3; which way Transmit and Receive tune is its general knowledge (R83), that the tuning comes
before the wait its decision D26; that SET_MODE of Receive closes the reading window is log entry 7. -/
def Obligations.SetModeMakesTheTransition : Prop :=
  ∀ (s : State) (m : RadioMode) (n : Nat), s.ready → (s.mode ≠ m → s.wakes s.mode 1 n) →
    exec (.setMode (modeCode m)) s =
      .next { s.io (s.setModeEvents .fg s.mode m 0 n) (setModeReads s.mode m n) with
        mode := m, window := s.window && m != .receive, result := some .unit }

/-- R72 (the spec's decision D3): the codes of the five modes, both ways. R82: the unrecognized codes 5, 6 and 7 do
nothing, in every mode. -/
def Obligations.UnrecognizedModeIsNoOp : Prop :=
  (modeOf 0 = some .sleep ∧ modeOf 1 = some .standby ∧ modeOf 2 = some .frequencySynthesis
      ∧ modeOf 3 = some .receive ∧ modeOf 4 = some .transmit)
    ∧ (∀ t : BitVec 3, 5 ≤ t.toNat → modeOf t = none)
    ∧ (∀ m : RadioMode, modeOf (modeCode m) = some m)
    ∧ ∀ (s : State) (t : BitVec 3), 5 ≤ t.toNat → s.ready →
        exec (.setMode t) s = .next { s with result := some .unit }

/-- R170, R84: while the device does not report mode-ready, the wait goes on, one status read for each micro-step, and
the cached mode stays; no timeout ends it. -/
def Obligations.ModeReadyWaitHasNoTimeout : Prop :=
  ∀ (s : State) (rest : List Micro) (n : Nat), s.faulted = false → s.quiet → s.handler = [] →
    (∀ k < n, s.readAt k &&& s.cfg.regmap.bModeReady = 0) →
    drive n { s with foreground := .waitModeReady :: rest } =
      .next { s.io ((List.range n).map (fun k => rd .fg s.cfg.regmap.aIrq1 (s.readAt k))) n with
        foreground := .waitModeReady :: rest }

/-! ### The receive pipeline -/

/-- R102: RECEIVE_BEGIN clears the slot's scalars, restarts the receiver where payload-ready is stale, maps the ready
line and enters Receive (the spec's decisions D27, D28, D31; the reading window closes: log entry 7). -/
def Obligations.ReceiveBeginArms : Prop :=
  ∀ (s : State) (n : Nat), s.ready → s.wakes s.mode (s.rearmStatusReads 0 + 1) n →
    exec .receiveBegin s =
      .next { s.io (s.rearmEvents .fg s.mode 0 n) (s.rearmReads s.mode 0 n) with
        slot := s.slot.cleared, window := false, mode := .receive, result := some .unit }

/-- R103, R104: RECEIVE_DONE in Receive with a frame pending goes to Standby and answers true, the slot kept and open to
the host; otherwise it re-arms and answers false (the spec's decision D33; the window is the model's field: log
entry 7). -/
def Obligations.ReceiveDonePolls : Prop :=
  ∀ (s : State) (n : Nat), s.ready →
    (s.mode = .receive → s.slot.pendingLength ≠ 0 →
      exec .receiveDone s =
        .next { s.io (modeEvents .fg s.cfg .standby (s.readAt 0)) 1 with
          mode := .standby, flag := true, window := true, result := some (.bool true) })
      ∧ (¬(s.mode = .receive ∧ s.slot.pendingLength ≠ 0) → s.wakes s.mode (s.rearmStatusReads 0 + 1) n →
        exec .receiveDone s =
          .next { s.io (s.rearmEvents .fg s.mode 0 n) (s.rearmReads s.mode 0 n) with
            slot := s.slot.cleared, window := false, mode := .receive, flag := false,
            result := some (.bool false) })

/-- R104: after RECEIVE_DONE has answered true the host reads the slot's fields; after a command that can re-arm it
reads nothing; and whatever interrupts come, the slot is stable while the window is open: every step keeps it that the
mode is not Receive then and ON_READY_EDGE not past its mode guard, and a micro-step that leaves the window open leaves
the slot, and what the host reads of it, as it was (the spec's decision D34; the window is the model's: log entry 7). -/
def Obligations.HostReadsInWindow : Prop :=
  (∀ s : State, s.ready → s.mode = .receive →
    (s.slot.pendingLength ≠ 0 → ∃ t, exec .receiveDone s = .next t ∧ t.hostSlot = some s.slot.view)
      ∧ (∃ t, exec .receiveBegin s = .next t ∧ t.hostSlot = none)
      ∧ (∃ t, exec (.setMode 3) s = .next t ∧ t.hostSlot = none)
      ∧ (s.slot.pendingLength = 0 → ∃ t, exec .receiveDone s = .next t ∧ t.hostSlot = none))
    ∧ (∀ s t : State, s.windowInv → step s = .next t → t.windowInv)
    ∧ ∀ s t : State, s.windowInv → s.window = true → tick s = .next t → t.window = true →
        t.slot = s.slot ∧ t.hostSlot = some s.slot.view

/-- R101: the guards of ON_READY_EDGE: in another mode nothing happens, and with payload-ready clear one status read is
all (the spec's decisions D9, D17). -/
def Obligations.EdgeGuardsHoldBack : Prop :=
  ∀ s : State, s.accepting → s.irqEnabled = true →
    (s.mode ≠ .receive → exec .onReadyEdge s = .next s)
      ∧ (s.mode = .receive → s.readAt 0 &&& s.cfg.regmap.bPayloadReady = 0 →
        exec .onReadyEdge s = .next (s.io [rd .irq s.cfg.regmap.aIrq2 (s.readAt 0)] 1))

/-- R100: ON_READY_EDGE accepts a frame: the transactions in their order, the slot, Receive again, one measurement
(the spec's decisions D10, D17; the reading window closes: log entry 7). -/
def Obligations.EdgeAcceptsFrame : Prop :=
  ∀ s : State, s.accepting → s.irqEnabled = true → s.mode = .receive →
    s.readAt 0 &&& s.cfg.regmap.bPayloadReady ≠ 0 → 3 ≤ (s.readAt 2).toNat → (s.readAt 2).toNat ≤ 64 →
    (s.promiscuous = true ∨ s.localAddress = some (s.readAt 3) ∨ s.localAddress ≠ none ∧ s.readAt 3 = 0) →
    exec .onReadyEdge s =
      .next { s.drawRssi.io
          (rd .irq s.cfg.regmap.aIrq2 (s.readAt 0)
            :: modeEvents .irq s.cfg .standby (s.readAt 1)
            ++ (s.fifoBytes 2 ((s.readAt 2).toNat + 1)).map (fun b => rd .irq s.cfg.regmap.aFifo b)
            ++ modeEvents .irq s.cfg .receive (s.readAt ((s.readAt 2).toNat + 3)))
          ((s.readAt 2).toNat + 4) with
        slot := {
          pendingLength := s.readAt 2
          payloadLength := s.readAt 2 - 3
          targetAddress := s.readAt 3
          senderAddress := s.readAt 4
          ackReply := (s.readAt 5).getLsbD 7
          ackRequest := (s.readAt 5).getLsbD 6
          payload := s.slot.payload.fill (s.fifoBytes 6 ((s.readAt 2).toNat - 3))
          rssi := s.rssiAnswer }
        window := false }

/-- R100 line 11, R24 (a): the bytes stored from index 0 on read back, and every later index keeps what it held. -/
def Obligations.FillReadsBack : Prop :=
  ∀ (m : Memory) (bytes : List Byte) (i : Nat),
    Memory.read (m.fill bytes) i = if i < bytes.length then bytes[i]? else Memory.read m i

/-- R141: a frame whose length is below 3 is dropped after one FIFO read: the slot cleared, reception re-armed, no
result. The transactions are those of R100 and R102, the re-arm through `ReceiveBegin` the spec's decisions D11 and D31;
the reading window closes: log entry 7. -/
def Obligations.EdgeDropsMalformed : Prop :=
  ∀ s : State, s.accepting → s.irqEnabled = true → s.mode = .receive →
    s.readAt 0 &&& s.cfg.regmap.bPayloadReady ≠ 0 → (s.readAt 2).toNat < 3 →
    exec .onReadyEdge s =
      .next { s.io
          (rd .irq s.cfg.regmap.aIrq2 (s.readAt 0)
            :: modeEvents .irq s.cfg .standby (s.readAt 1)
            ++ rd .irq s.cfg.regmap.aFifo (s.readAt 2)
            :: s.rearmEvents .irq .standby 3 0)
          (3 + s.rearmReads .standby 3 0) with
        slot := s.slot.cleared, window := false }

/-- R142: a frame the filter rejects is dropped after two FIFO reads: the slot cleared, reception re-armed, no result.
The filter's place after the target byte is the spec's decision D10 (C1), the re-arm its decision D11 (C2), the
transactions are those of R100 and R102; the reading window closes: log entry 7. -/
def Obligations.EdgeDropsFiltered : Prop :=
  ∀ (s : State) (a : Byte), s.accepting → s.irqEnabled = true → s.mode = .receive →
    s.readAt 0 &&& s.cfg.regmap.bPayloadReady ≠ 0 → 3 ≤ (s.readAt 2).toNat → (s.readAt 2).toNat ≤ 64 →
    s.promiscuous = false → s.localAddress = some a → s.readAt 3 ≠ a → s.readAt 3 ≠ 0 →
    exec .onReadyEdge s =
      .next { s.io
          (rd .irq s.cfg.regmap.aIrq2 (s.readAt 0)
            :: modeEvents .irq s.cfg .standby (s.readAt 1)
            ++ rd .irq s.cfg.regmap.aFifo (s.readAt 2)
            :: rd .irq s.cfg.regmap.aFifo (s.readAt 3)
            :: s.rearmEvents .irq .standby 4 0)
          (4 + s.rearmReads .standby 4 0) with
        slot := s.slot.cleared, window := false }

/-- R106 (the spec's decision D12): a length above 64 sets `S.faulted`: the mode stays Standby, the slot is untouched,
the rest of the FIFO is not read, and the state reached has no step. That the run answers a next state with the fault
set, and that every later step is the fault `oversizeFrame`, is log entry 10 (DEDUCED). -/
def Obligations.EdgeFaultsOnOversize : Prop :=
  ∀ s : State, s.accepting → s.irqEnabled = true → s.mode = .receive →
    s.readAt 0 &&& s.cfg.regmap.bPayloadReady ≠ 0 → 64 < (s.readAt 2).toNat →
    ∃ t, exec .onReadyEdge s = .next t ∧ t.faulted = true ∧ t.mode = .standby ∧ t.slot = s.slot
      ∧ t.trace = s.trace ++ rd .irq s.cfg.regmap.aIrq2 (s.readAt 0)
          :: modeEvents .irq s.cfg .standby (s.readAt 1)
          ++ [rd .irq s.cfg.regmap.aFifo (s.readAt 2)]
      ∧ step t = .fault .oversizeFrame

/-! ### The gate and the sender -/

/-- R110, R111, R112: every row of CAN_SEND's table; the measurement is taken only in Receive with no frame pending, and
the comparison is signed and strict (the spec's decisions D16, D18). -/
def Obligations.CanSendFollowsTheTable : Prop :=
  ∀ s : State, s.ready →
    (s.mode = .standby → exec .canSend s = .next { s with flag := true, result := some (.bool true) })
      ∧ (s.mode = .receive → s.slot.pendingLength = 0 → s.rssiAnswer.toInt < s.cfg.csmaLimit.toInt →
        exec .canSend s =
          .next { s.drawRssi.io (modeEvents .fg s.cfg .standby (s.readAt 0)) 1 with
            mode := .standby, flag := true, result := some (.bool true) })
      ∧ (s.mode = .receive → s.slot.pendingLength = 0 → s.cfg.csmaLimit.toInt ≤ s.rssiAnswer.toInt →
        exec .canSend s = .next { s.drawRssi with flag := false, result := some (.bool false) })
      ∧ (s.mode = .receive → s.slot.pendingLength ≠ 0 →
        exec .canSend s = .next { s with flag := false, result := some (.bool false) })
      ∧ (s.mode = .transmit ∨ s.mode = .sleep ∨ s.mode = .frequencySynthesis →
        exec .canSend s = .next { s with flag := false, result := some (.bool false) })

/-- R113: one round of the spin loop where it does not grant: in Receive with no frame pending and a busy channel a
measurement and a re-arm, in Sleep, FrequencySynthesis or Transmit a re-arm, and the same position again. Nothing bounds
the number of rounds (R170). That a round closes the reading window, writing the pending length, is log entry 7. -/
def Obligations.SpinRoundReArms : Prop :=
  ∀ (s : State) (rest : List Micro), s.faulted = false → s.quiet → s.handler = [] →
    (s.mode = .receive → s.slot.pendingLength = 0 → s.cfg.csmaLimit.toInt ≤ s.rssiAnswer.toInt →
      ∃ c, 0 < c ∧ ∀ n,
        drive (n + c) { s with foreground := .canSendMode :: .spinTest :: rest } =
          drive n { s.drawRssi.io (s.rearmEvents .fg .receive 0 0) (s.rearmReads .receive 0 0) with
            slot := s.slot.cleared, window := false, flag := false,
            foreground := .canSendMode :: .spinTest :: rest })
      ∧ ∀ w, s.mode = .sleep ∨ s.mode = .frequencySynthesis ∨ s.mode = .transmit →
          s.wakes s.mode (s.rearmStatusReads 0 + 1) w →
          ∃ c, 0 < c ∧ ∀ n,
            drive (n + c) { s with foreground := .canSendMode :: .spinTest :: rest } =
              drive n { s.io (s.rearmEvents .fg s.mode 0 w) (s.rearmReads s.mode 0 w) with
                slot := s.slot.cleared, window := false, mode := .receive, flag := false,
                foreground := .canSendMode :: .spinTest :: rest }

/-- R116, R118: SEND_FRAME: Standby, the mapping, the frame's bytes in order, Transmit, the wait, Standby; with both
request flags it is refused (the spec's decisions D14, D28, D29, D37). -/
def Obligations.SendFrameTransmits : Prop :=
  ∀ (s : State) (t : Byte) (p : List Byte) (ra sa : Bool), s.ready →
    (∀ (a : Byte) (w n : Nat), ¬(ra = true ∧ sa = true) → s.localAddress = some a → s.wakes s.mode 1 w →
      s.completes 0 n →
      exec (.sendFrame t p ra sa) s =
        .next { (s.io
            (s.setModeEvents .fg s.mode .standby 0 w
              ++ s.transmitEvents (encodeFrame t a (if sa then 0x80 else if ra then 0x40 else 0x00) p)
                  (setModeReads s.mode .standby w))
            (setModeReads s.mode .standby w + 2)).polledLine (n + 1) with
          mode := .standby, result := some .unit })
      ∧ (ra = true → sa = true → exec (.sendFrame t p ra sa) s = .refused .bothAckFlags)

/-- R170, R119: while the ready line reads 0, the transmit-complete wait goes on, one poll for each micro-step and no
transaction; no timeout ends it. -/
def Obligations.TransmitWaitHasNoTimeout : Prop :=
  ∀ (s : State) (rest : List Micro) (n : Nat), s.faulted = false → s.quiet → s.handler = [] →
    (∀ k < n, s.lineAt k = false) →
    drive n { s with foreground := .waitLine :: rest } =
      .next { s.polledLine n with foreground := .waitLine :: rest }

/-- R115: SEND where the gate grants at once or after one poll: the restart write, the gate's transactions, the frame,
and Standby with reception off. The slot and the host's window are left as they were (the spec's decisions D27, D29). -/
def Obligations.SendTransmitsWhenGranted : Prop :=
  ∀ (s : State) (t : Byte) (p : List Byte) (ra : Bool) (a : Byte) (n : Nat), s.ready → s.localAddress = some a →
    s.grants → s.completes 0 n →
    exec (.send t p ra) s =
      .next { (s.measured.io
          (restartEvents .fg s.cfg (s.readAt 0) ++ s.grantEvents 1
            ++ s.transmitEvents (encodeFrame t a (if ra then 0x40 else 0x00) p) (1 + s.grantReads))
          (s.grantReads + 3)).polledLine (n + 1) with
        mode := .standby, flag := true, result := some .unit }

/-- R122: SEND_ACK where the gate grants at once or after one poll: an ACK frame to the slot's sender, with no restart
write; and the sender is taken before the spin loop, whose re-arm would clear the slot: the frame to come carries it
already (the spec's decision D20). -/
def Obligations.SendAckRepliesToSender : Prop :=
  (∀ (s : State) (p : List Byte) (a : Byte) (n : Nat), s.ready → s.localAddress = some a →
    s.grants → s.completes 0 n →
    exec (.sendAck p) s =
      .next { (s.measured.io
          (s.grantEvents 0 ++ s.transmitEvents (encodeFrame s.slot.senderAddress a 0x80 p) s.grantReads)
          (s.grantReads + 2)).polledLine (n + 1) with
        mode := .standby, flag := true, result := some .unit })
    ∧ ∀ (s : State) (p : List Byte) (rest : List Micro) (n : Nat), s.faulted = false → s.quiet → s.handler = [] →
        drive (n + 1) { s with foreground := .captureSender p :: rest } =
          drive n { s with
            foreground := .canSendMode :: .spinTest :: .setMode 1
              :: .regWrite s.cfg.regmap.aDiomap s.cfg.regmap.vDioTx
              :: .loadFrame s.slot.senderAddress 0x80 p :: rest }

/-- R111: whatever the channel measurement and whatever interrupts come, CAN_SEND answers true in Standby and false in
Transmit, once it has run to its end. -/
def Obligations.CanSendInStandbyAndTransmit : Prop :=
  ∀ s : State, s.faulted = false → s.idle = true → s.initialized = true →
    (s.mode = .standby → ∃ t, exec .canSend s = .next t ∧ (t.idle = true → t.result = some (.bool true)))
      ∧ (s.mode = .transmit → ∃ t, exec .canSend s = .next t ∧ (t.idle = true → t.result = some (.bool false)))

/-- R121: ACK_RECEIVED polls; a frame found is matched by its sender and its ACK-reply flag, and the host may read it;
with no frame it re-arms and answers false (the spec's decision D19; the window: log entry 7). -/
def Obligations.AckReceivedMatches : Prop :=
  ∀ (s : State) (f : Byte) (n : Nat), s.ready →
    (s.mode = .receive → s.slot.pendingLength ≠ 0 →
      exec (.ackReceived f) s =
        .next { s.io (modeEvents .fg s.cfg .standby (s.readAt 0)) 1 with
          mode := .standby, window := true
          flag := decide (s.slot.senderAddress = f ∨ f = 0) && s.slot.ackReply
          result := some (.bool (decide (s.slot.senderAddress = f ∨ f = 0) && s.slot.ackReply)) })
      ∧ (¬(s.mode = .receive ∧ s.slot.pendingLength ≠ 0) → s.wakes s.mode (s.rearmStatusReads 0 + 1) n →
        exec (.ackReceived f) s =
          .next { s.io (s.rearmEvents .fg s.mode 0 n) (s.rearmReads s.mode 0 n) with
            slot := s.slot.cleared, window := false, mode := .receive, flag := false,
            result := some (.bool false) })

/-- R120, R123, R144: SEND_WITH_RETRY where no answer comes, for every `retries` 0..255: exactly `retries + 1` sends of
the same frame with the ACK-request control byte, and failure (the spec's C4 and decision D21). From Standby with a
timeout of 0, two readings of the time base for each send and no poll; with any timeout, where each attempt is granted,
sent and has a window that ends after polls without a frame, the re-arms of those polls (their number is bounded by
the model's step budget: log entry 1). And whatever interrupts come, a SEND_WITH_RETRY that has ended leaves the reading
window open only where it answered true (R144). That the command closes the window at its start is R104, log entry 7. -/
def Obligations.RetryExhaustsItsAttempts : Prop :=
  (∀ (s : State) (t : Byte) (p : List Byte) (retries a : Byte), s.ready → s.localAddress = some a →
    (s.mode = .standby → (∀ k ≤ retries.toNat, s.lineAt k = true) →
      exec (.sendWithRetry t p retries 0) s =
        .next { s with
          window := false
          flag := false
          result := some (.bool false)
          trace := s.trace ++ (List.range (retries.toNat + 1)).flatMap (s.attemptEvents (encodeFrame t a 0x40 p))
          env := { s.env with
            reads := s.env.reads.drop (3 * (retries.toNat + 1))
            line := s.env.line.drop (retries.toNat + 1)
            clock := s.env.clock.drop (2 * (retries.toNat + 1)) } })
      ∧ ∀ (timeout : BitVec 16) (polls : List Nat), polls.length = retries.toNat + 1 → polls.sum ≤ retryPollBound →
          s.closeWindow.attemptsFail (encodeFrame t a 0x40 p) timeout polls →
          exec (.sendWithRetry t p retries timeout) s =
            .next { s.closeWindow.afterAttempts (encodeFrame t a 0x40 p) polls with
              flag := false, result := some (.bool false) })
    ∧ ∀ (s u : State) (t : Byte) (p : List Byte) (retries : Byte) (timeout : BitVec 16),
        exec (.sendWithRetry t p retries timeout) s = .next u → u.idle = true → u.window = true →
        u.result = some (.bool true)

/-- R120 lines 5 and 6, R121: inside the window a poll that finds the matching acknowledgement ends SEND_WITH_RETRY with
success, in Standby and with the frame kept; so does the whole command, whatever interrupts came before and at whichever
attempt it stands there, within half of a step's budget (log entry 1). That the match opens the host's reading window is
log entry 7. -/
def Obligations.RetrySucceedsOnMatch : Prop :=
  ∀ (s : State) (r : RetrySession) (t0 : Millis), s.faulted = false → s.quiet → s.handler = [] → s.mode = .receive →
    s.slot.pendingLength ≠ 0 → (s.slot.senderAddress = r.targetAddress ∨ r.targetAddress = 0) →
    s.slot.ackReply = true → (s.nowAnswer - t0).toNat < r.perAttemptTimeout.toNat →
    let success : State := { s.drawNow.io (modeEvents .fg s.cfg .standby (s.readAt 0)) 1 with
      mode := .standby, window := true, flag := true, foreground := [], result := some (.bool true) }
    drive (stepBudget s.cfg) { s with foreground := [.windowTest r t0, .finish true] } = .next success
      ∧ ∀ (o : State) (t : Byte) (p : List Byte) (retries : Byte) (timeout : BitVec 16) (n : Nat),
          o.faulted = false → o.idle = true → o.initialized = true → 2 * n ≤ stepBudget o.cfg →
          drive n { o with
            window := false
            foreground := [.retryLoop ⟨attemptsOf retries, timeout, t, p⟩, .finish true]
            result := none } = .next s →
          s.foreground = [.windowTest r t0, .finish true] →
          exec (.sendWithRetry t p retries timeout) o = .next success

/-- R120 lines 4 to 7, R75 (i): the window test is strict, on the elapsed time modulo 2^32; inside the window a poll
follows, and when the test fails an attempt is used up (the spec's decision D21). The poll opens no reading window
(R144; log entry 7). -/
def Obligations.RetryWindowIsStrict : Prop :=
  ∀ (s : State) (r : RetrySession) (t0 : Millis) (rest : List Micro),
    runMicro .fg (.windowTest r t0) { s with foreground := rest } =
      .next (if (s.nowAnswer.toNat + (2 ^ 32 - t0.toNat)) % 2 ^ 32 < r.perAttemptTimeout.toNat then
        { s.drawNow with
          foreground := .enterCritical :: .receiveTest :: .ackSender r.targetAddress :: .windowPoll r t0 :: rest }
      else
        { s.drawNow with
          foreground := .retryLoop { r with attemptsRemaining := r.attemptsRemaining - 1 } :: rest })

/-! ### The interrupt and the two contexts -/

/-- R23, R145 (the spec's decision D7): an edge that comes while delivery is off is latched, and nothing else changes
(ON_READY_EDGE presented as a request is the edge: log entry 18). -/
def Obligations.MaskedEdgeIsLatched : Prop :=
  ∀ s : State, s.faulted = false → s.irqEnabled = false → exec .onReadyEdge s = .next { s with irqPending := true }

/-- R148, R23: a boundary takes a pending, enabled interrupt or leaves it; entry clears pending and enable and saves
nothing, the handler runs before the foreground, and its return sets the enable
(the spec's decisions D7, D8; the listed schedule is the model's: log entry 4). -/
def Obligations.InterruptEntryAndReturn : Prop :=
  ∀ (s : State) (b : Boundary) (l : List Boundary), s.env.boundaries = b :: l →
    (b.take = true → s.irqEnabled = true → s.irqPending = true ∨ b.edge = true →
      s.boundary = { s with
        irqPending := false, irqEnabled := false, handler := .edgeGuard :: .irqReturn :: s.handler,
        env := { s.env with boundaries := l } })
      ∧ (b.take = false ∨ s.irqEnabled = false ∨ s.irqPending = false ∧ b.edge = false →
        s.boundary = { s with irqPending := s.irqPending || b.edge, env := { s.env with boundaries := l } })
      ∧ advance { s with handler := [.irqReturn] } = .next { s with handler := [], irqEnabled := true }

/-- R47: `ExitCritical` restores the enable that its `EnterCritical` saved, in a nested section too; neither makes a
transaction (the spec's decision D6). -/
def Obligations.CriticalSectionRestores : Prop :=
  ∀ s t : State,
    s.enterCritical = { s with irqEnabled := false, saved := s.irqEnabled :: s.saved }
      ∧ (t.saved = s.enterCritical.saved →
        t.exitCritical = { t with irqEnabled := s.irqEnabled, saved := s.saved })

/-- R146 (the spec's decision D8): the foreground never runs while the interrupt context does: its position stays. -/
def Obligations.ForegroundWaitsForHandler : Prop :=
  ∀ s t : State, s.handler ≠ [] → tick s = .next t → t.foreground = s.foreground

/-- R14: only the last line of `SetMode` writes the cached mode. -/
def Obligations.ModeWrittenOnlyBySetMode : Prop :=
  ∀ (ctx : Context) (m : Micro) (s t : State), runMicro ctx m s = .next t → t.mode ≠ s.mode → m = .storeMode t.mode

/-- R19: outside ON_READY_EDGE's own positions the slot is only cleared: the two lengths together (log entry 15), or one
scalar field. -/
def Obligations.SlotWrittenByOwners : Prop :=
  ∀ (ctx : Context) (m : Micro) (s t : State), runMicro ctx m s = .next t → m.drains = false → t.slot ≠ s.slot →
    ∃ f, m = .clearField f ∧ t.slot = s.slot.clearField f

/-- R10 (b), R19: a step keeps ON_READY_EDGE's positions out of the foreground. -/
def Obligations.ForegroundHoldsNoDrain : Prop :=
  ∀ s t : State, s.foreground.all (fun m => !m.drains) = true → step s = .next t →
    t.foreground.all (fun m => !m.drains) = true

/-! ### Invariants and rules of the whole machine -/

/-- R17, R18, R24 (a): every step, from every state that has it and whatever interrupts come, keeps the payload buffer in
its canonical form, the slot's lengths in their ranges, a byte held at each index below the payload length, and, where a
frame is pending, the pending length at 3 more than the payload length. It rests on the model's deduction that the two
lengths are cleared together (log entry 15). -/
def Obligations.SlotInvariantKept : Prop :=
  ∀ s t : State, s.slotInv → step s = .next t → t.slotInv

/-- R10, R47, R145, R149: every step, from every state that has it, keeps critical sections and the enable in agreement:
delivery is off while the interrupt context runs, which no second interrupt enters; and a block in which nothing is in
flight has delivery on and no critical section open. R19: every step from such a state that does not accept INITIALIZE
keeps the foreground's clearing of the slot inside its critical sections. -/
def Obligations.CriticalDisciplineKept : Prop :=
  (∀ s t : State, s.disciplined → step s = .next t → t.disciplined)
    ∧ (∀ s : State, s.disciplined → s.idle = true → s.irqEnabled = true ∧ s.saved = [])
    ∧ ∀ s t : State, s.disciplined → s.clearsInside →
        (∀ r u band nodeId networkId, s.activity = .accept r u → decode r ≠ .ok (.initBlock band nodeId networkId)) →
        step s = .next t → t.clearsInside

/-- The invariants hold after reset. -/
def Obligations.InvariantsHoldAtReset : Prop :=
  ∀ c : Cfg, (State.resetWith c).slotInv ∧ (State.resetWith c).disciplined
    ∧ (State.resetWith c).clearsInside ∧ (State.resetWith c).foreground.all (fun m => !m.drains) = true
    ∧ (State.resetWith c).windowInv ∧ (State.resetWith c).awake

/-- R149: while ON_READY_EDGE runs, delivery is off, its critical sections restore "off", and it stays off until it has
returned; neither a boundary nor an edge enters it a second time; and a fault inside it ends it with `S.faulted` set. -/
def Obligations.HandlerIsNotReentered : Prop :=
  ∀ s : State, s.disciplined → s.handler ≠ [] →
    s.irqEnabled = false ∧ (∀ c ∈ s.saved, c = false)
      ∧ s.boundary.handler = s.handler
      ∧ (s.faulted = false → exec .onReadyEdge s = .next { s with irqPending := true })
      ∧ (∀ t, tick s = .next t → t.handler ≠ [] → t.irqEnabled = false)
      ∧ ∀ rest, s.handler = .raiseOversize :: rest →
          ∃ t, tick s = .next t ∧ t.faulted = true ∧ ∀ n, drive n t = .next t

/-- R48, R56, R10: a step only adds to the event history, never rewrites it, and never changes the configuration. -/
def Obligations.HistoryOnlyGrows : Prop :=
  ∀ s t : State, step s = .next t → t.cfg = s.cfg ∧ s.trace <+: t.trace

/-- R15, R16, R56, R122: the network identifier, the power level, the slot fields only the host reads, the event history
and the last result play no part in what the block does: two states that differ in them alone step alike. -/
def Obligations.UnreadFieldsPlayNoPart : Prop :=
  ∀ s t : State, s.readable = t.readable → sameOutcome (step s) (step t)

/-- R85, R154: whatever interrupts come, no instruction but SET_MODE with the code of Sleep or FrequencySynthesis brings
an idle block into one of these modes; and every step that does not accept such a SET_MODE, an operation left in flight
and resumed by it included, keeps the block out of them, with nothing in flight on the way there. -/
def Obligations.SleepOnlyBySetMode : Prop :=
  (∀ s t : State, s.awake →
    (∀ r u, s.activity = .accept r u → decode r ≠ .ok (.setMode 0) ∧ decode r ≠ .ok (.setMode 2)) →
    step s = .next t → t.awake)
    ∧ ∀ (i : Instr) (s t : State), s.idle = true → i ≠ .setMode 0 → i ≠ .setMode 2 → exec i s = .next t →
        t.mode = .sleep ∨ t.mode = .frequencySynthesis → t.mode = s.mode

/-- The run of an operation can be cut anywhere: what is left in flight is resumed as if it had not been cut (log
entry 1). -/
def Obligations.DriveSplits : Prop :=
  ∀ (m n : Nat) (s : State),
    drive (m + n) s =
      match drive m s with
      | .next t => drive n t
      | .fault f => .fault f
      | .refused r => .refused r
end

