-- ==== Sys2Proof/Laws/State.lean ====
section
/-! SUPPORT. One lemma per field per update: what each named operation over the state leaves in each field. -/

namespace Sys2Proof.Machine

/-! ### `State.record` -/

@[simp] theorem State.record_mode (s : State) (ctx : Context) (t : Transfer) : (s.record ctx t).mode = s.mode := rfl
@[simp] theorem State.record_localAddress (s : State) (ctx : Context) (t : Transfer) : (s.record ctx t).localAddress = s.localAddress := rfl
@[simp] theorem State.record_networkId (s : State) (ctx : Context) (t : Transfer) : (s.record ctx t).networkId = s.networkId := rfl
@[simp] theorem State.record_promiscuous (s : State) (ctx : Context) (t : Transfer) : (s.record ctx t).promiscuous = s.promiscuous := rfl
@[simp] theorem State.record_powerLevel (s : State) (ctx : Context) (t : Transfer) : (s.record ctx t).powerLevel = s.powerLevel := rfl
@[simp] theorem State.record_slot (s : State) (ctx : Context) (t : Transfer) : (s.record ctx t).slot = s.slot := rfl
@[simp] theorem State.record_irqEnabled (s : State) (ctx : Context) (t : Transfer) : (s.record ctx t).irqEnabled = s.irqEnabled := rfl
@[simp] theorem State.record_irqPending (s : State) (ctx : Context) (t : Transfer) : (s.record ctx t).irqPending = s.irqPending := rfl
@[simp] theorem State.record_initialized (s : State) (ctx : Context) (t : Transfer) : (s.record ctx t).initialized = s.initialized := rfl
@[simp] theorem State.record_faulted (s : State) (ctx : Context) (t : Transfer) : (s.record ctx t).faulted = s.faulted := rfl
@[simp] theorem State.record_foreground (s : State) (ctx : Context) (t : Transfer) : (s.record ctx t).foreground = s.foreground := rfl
@[simp] theorem State.record_handler (s : State) (ctx : Context) (t : Transfer) : (s.record ctx t).handler = s.handler := rfl
@[simp] theorem State.record_saved (s : State) (ctx : Context) (t : Transfer) : (s.record ctx t).saved = s.saved := rfl
@[simp] theorem State.record_flag (s : State) (ctx : Context) (t : Transfer) : (s.record ctx t).flag = s.flag := rfl
@[simp] theorem State.record_window (s : State) (ctx : Context) (t : Transfer) : (s.record ctx t).window = s.window := rfl
@[simp] theorem State.record_result (s : State) (ctx : Context) (t : Transfer) : (s.record ctx t).result = s.result := rfl
@[simp] theorem State.record_port (s : State) (ctx : Context) (t : Transfer) : (s.record ctx t).port = s.port := rfl
@[simp] theorem State.record_trace (s : State) (ctx : Context) (t : Transfer) : (s.record ctx t).trace = s.trace ++ [⟨ctx, t⟩] := rfl
@[simp] theorem State.record_cfg (s : State) (ctx : Context) (t : Transfer) : (s.record ctx t).cfg = s.cfg := rfl
@[simp] theorem State.record_env (s : State) (ctx : Context) (t : Transfer) : (s.record ctx t).env = s.env := rfl

/-! ### `State.regRead` -/

@[simp] theorem State.regRead_mode (s : State) (ctx : Context) (a : Addr) : (s.regRead ctx a).mode = s.mode := rfl
@[simp] theorem State.regRead_localAddress (s : State) (ctx : Context) (a : Addr) : (s.regRead ctx a).localAddress = s.localAddress := rfl
@[simp] theorem State.regRead_networkId (s : State) (ctx : Context) (a : Addr) : (s.regRead ctx a).networkId = s.networkId := rfl
@[simp] theorem State.regRead_promiscuous (s : State) (ctx : Context) (a : Addr) : (s.regRead ctx a).promiscuous = s.promiscuous := rfl
@[simp] theorem State.regRead_powerLevel (s : State) (ctx : Context) (a : Addr) : (s.regRead ctx a).powerLevel = s.powerLevel := rfl
@[simp] theorem State.regRead_slot (s : State) (ctx : Context) (a : Addr) : (s.regRead ctx a).slot = s.slot := rfl
@[simp] theorem State.regRead_irqEnabled (s : State) (ctx : Context) (a : Addr) : (s.regRead ctx a).irqEnabled = s.irqEnabled := rfl
@[simp] theorem State.regRead_irqPending (s : State) (ctx : Context) (a : Addr) : (s.regRead ctx a).irqPending = s.irqPending := rfl
@[simp] theorem State.regRead_initialized (s : State) (ctx : Context) (a : Addr) : (s.regRead ctx a).initialized = s.initialized := rfl
@[simp] theorem State.regRead_faulted (s : State) (ctx : Context) (a : Addr) : (s.regRead ctx a).faulted = s.faulted := rfl
@[simp] theorem State.regRead_foreground (s : State) (ctx : Context) (a : Addr) : (s.regRead ctx a).foreground = s.foreground := rfl
@[simp] theorem State.regRead_handler (s : State) (ctx : Context) (a : Addr) : (s.regRead ctx a).handler = s.handler := rfl
@[simp] theorem State.regRead_saved (s : State) (ctx : Context) (a : Addr) : (s.regRead ctx a).saved = s.saved := rfl
@[simp] theorem State.regRead_flag (s : State) (ctx : Context) (a : Addr) : (s.regRead ctx a).flag = s.flag := rfl
@[simp] theorem State.regRead_window (s : State) (ctx : Context) (a : Addr) : (s.regRead ctx a).window = s.window := rfl
@[simp] theorem State.regRead_result (s : State) (ctx : Context) (a : Addr) : (s.regRead ctx a).result = s.result := rfl
@[simp] theorem State.regRead_port (s : State) (ctx : Context) (a : Addr) : (s.regRead ctx a).port = s.port := rfl
@[simp] theorem State.regRead_trace (s : State) (ctx : Context) (a : Addr) : (s.regRead ctx a).trace = s.trace ++ [⟨ctx, .read a s.readAnswer⟩] := rfl
@[simp] theorem State.regRead_cfg (s : State) (ctx : Context) (a : Addr) : (s.regRead ctx a).cfg = s.cfg := rfl
@[simp] theorem State.regRead_env (s : State) (ctx : Context) (a : Addr) : (s.regRead ctx a).env = { s.env with reads := s.env.reads.rest } := rfl

/-! ### `State.regWrite` -/

@[simp] theorem State.regWrite_mode (s : State) (ctx : Context) (a : Addr) (v : Byte) : (s.regWrite ctx a v).mode = s.mode := rfl
@[simp] theorem State.regWrite_localAddress (s : State) (ctx : Context) (a : Addr) (v : Byte) : (s.regWrite ctx a v).localAddress = s.localAddress := rfl
@[simp] theorem State.regWrite_networkId (s : State) (ctx : Context) (a : Addr) (v : Byte) : (s.regWrite ctx a v).networkId = s.networkId := rfl
@[simp] theorem State.regWrite_promiscuous (s : State) (ctx : Context) (a : Addr) (v : Byte) : (s.regWrite ctx a v).promiscuous = s.promiscuous := rfl
@[simp] theorem State.regWrite_powerLevel (s : State) (ctx : Context) (a : Addr) (v : Byte) : (s.regWrite ctx a v).powerLevel = s.powerLevel := rfl
@[simp] theorem State.regWrite_slot (s : State) (ctx : Context) (a : Addr) (v : Byte) : (s.regWrite ctx a v).slot = s.slot := rfl
@[simp] theorem State.regWrite_irqEnabled (s : State) (ctx : Context) (a : Addr) (v : Byte) : (s.regWrite ctx a v).irqEnabled = s.irqEnabled := rfl
@[simp] theorem State.regWrite_irqPending (s : State) (ctx : Context) (a : Addr) (v : Byte) : (s.regWrite ctx a v).irqPending = s.irqPending := rfl
@[simp] theorem State.regWrite_initialized (s : State) (ctx : Context) (a : Addr) (v : Byte) : (s.regWrite ctx a v).initialized = s.initialized := rfl
@[simp] theorem State.regWrite_faulted (s : State) (ctx : Context) (a : Addr) (v : Byte) : (s.regWrite ctx a v).faulted = s.faulted := rfl
@[simp] theorem State.regWrite_foreground (s : State) (ctx : Context) (a : Addr) (v : Byte) : (s.regWrite ctx a v).foreground = s.foreground := rfl
@[simp] theorem State.regWrite_handler (s : State) (ctx : Context) (a : Addr) (v : Byte) : (s.regWrite ctx a v).handler = s.handler := rfl
@[simp] theorem State.regWrite_saved (s : State) (ctx : Context) (a : Addr) (v : Byte) : (s.regWrite ctx a v).saved = s.saved := rfl
@[simp] theorem State.regWrite_flag (s : State) (ctx : Context) (a : Addr) (v : Byte) : (s.regWrite ctx a v).flag = s.flag := rfl
@[simp] theorem State.regWrite_window (s : State) (ctx : Context) (a : Addr) (v : Byte) : (s.regWrite ctx a v).window = s.window := rfl
@[simp] theorem State.regWrite_result (s : State) (ctx : Context) (a : Addr) (v : Byte) : (s.regWrite ctx a v).result = s.result := rfl
@[simp] theorem State.regWrite_port (s : State) (ctx : Context) (a : Addr) (v : Byte) : (s.regWrite ctx a v).port = s.port := rfl
@[simp] theorem State.regWrite_trace (s : State) (ctx : Context) (a : Addr) (v : Byte) : (s.regWrite ctx a v).trace = s.trace ++ [⟨ctx, .write a v⟩] := rfl
@[simp] theorem State.regWrite_cfg (s : State) (ctx : Context) (a : Addr) (v : Byte) : (s.regWrite ctx a v).cfg = s.cfg := rfl
@[simp] theorem State.regWrite_env (s : State) (ctx : Context) (a : Addr) (v : Byte) : (s.regWrite ctx a v).env = s.env := rfl

/-! ### `State.drawRssi` -/

@[simp] theorem State.drawRssi_mode (s : State) : (s.drawRssi).mode = s.mode := rfl
@[simp] theorem State.drawRssi_localAddress (s : State) : (s.drawRssi).localAddress = s.localAddress := rfl
@[simp] theorem State.drawRssi_networkId (s : State) : (s.drawRssi).networkId = s.networkId := rfl
@[simp] theorem State.drawRssi_promiscuous (s : State) : (s.drawRssi).promiscuous = s.promiscuous := rfl
@[simp] theorem State.drawRssi_powerLevel (s : State) : (s.drawRssi).powerLevel = s.powerLevel := rfl
@[simp] theorem State.drawRssi_slot (s : State) : (s.drawRssi).slot = s.slot := rfl
@[simp] theorem State.drawRssi_irqEnabled (s : State) : (s.drawRssi).irqEnabled = s.irqEnabled := rfl
@[simp] theorem State.drawRssi_irqPending (s : State) : (s.drawRssi).irqPending = s.irqPending := rfl
@[simp] theorem State.drawRssi_initialized (s : State) : (s.drawRssi).initialized = s.initialized := rfl
@[simp] theorem State.drawRssi_faulted (s : State) : (s.drawRssi).faulted = s.faulted := rfl
@[simp] theorem State.drawRssi_foreground (s : State) : (s.drawRssi).foreground = s.foreground := rfl
@[simp] theorem State.drawRssi_handler (s : State) : (s.drawRssi).handler = s.handler := rfl
@[simp] theorem State.drawRssi_saved (s : State) : (s.drawRssi).saved = s.saved := rfl
@[simp] theorem State.drawRssi_flag (s : State) : (s.drawRssi).flag = s.flag := rfl
@[simp] theorem State.drawRssi_window (s : State) : (s.drawRssi).window = s.window := rfl
@[simp] theorem State.drawRssi_result (s : State) : (s.drawRssi).result = s.result := rfl
@[simp] theorem State.drawRssi_port (s : State) : (s.drawRssi).port = s.port := rfl
@[simp] theorem State.drawRssi_trace (s : State) : (s.drawRssi).trace = s.trace := rfl
@[simp] theorem State.drawRssi_cfg (s : State) : (s.drawRssi).cfg = s.cfg := rfl
@[simp] theorem State.drawRssi_env (s : State) : (s.drawRssi).env = { s.env with rssis := s.env.rssis.rest } := rfl

/-! ### `State.drawNow` -/

@[simp] theorem State.drawNow_mode (s : State) : (s.drawNow).mode = s.mode := rfl
@[simp] theorem State.drawNow_localAddress (s : State) : (s.drawNow).localAddress = s.localAddress := rfl
@[simp] theorem State.drawNow_networkId (s : State) : (s.drawNow).networkId = s.networkId := rfl
@[simp] theorem State.drawNow_promiscuous (s : State) : (s.drawNow).promiscuous = s.promiscuous := rfl
@[simp] theorem State.drawNow_powerLevel (s : State) : (s.drawNow).powerLevel = s.powerLevel := rfl
@[simp] theorem State.drawNow_slot (s : State) : (s.drawNow).slot = s.slot := rfl
@[simp] theorem State.drawNow_irqEnabled (s : State) : (s.drawNow).irqEnabled = s.irqEnabled := rfl
@[simp] theorem State.drawNow_irqPending (s : State) : (s.drawNow).irqPending = s.irqPending := rfl
@[simp] theorem State.drawNow_initialized (s : State) : (s.drawNow).initialized = s.initialized := rfl
@[simp] theorem State.drawNow_faulted (s : State) : (s.drawNow).faulted = s.faulted := rfl
@[simp] theorem State.drawNow_foreground (s : State) : (s.drawNow).foreground = s.foreground := rfl
@[simp] theorem State.drawNow_handler (s : State) : (s.drawNow).handler = s.handler := rfl
@[simp] theorem State.drawNow_saved (s : State) : (s.drawNow).saved = s.saved := rfl
@[simp] theorem State.drawNow_flag (s : State) : (s.drawNow).flag = s.flag := rfl
@[simp] theorem State.drawNow_window (s : State) : (s.drawNow).window = s.window := rfl
@[simp] theorem State.drawNow_result (s : State) : (s.drawNow).result = s.result := rfl
@[simp] theorem State.drawNow_port (s : State) : (s.drawNow).port = s.port := rfl
@[simp] theorem State.drawNow_trace (s : State) : (s.drawNow).trace = s.trace := rfl
@[simp] theorem State.drawNow_cfg (s : State) : (s.drawNow).cfg = s.cfg := rfl
@[simp] theorem State.drawNow_env (s : State) : (s.drawNow).env = { s.env with clock := s.env.clock.rest } := rfl

/-! ### `State.drawLine` -/

@[simp] theorem State.drawLine_mode (s : State) : (s.drawLine).mode = s.mode := rfl
@[simp] theorem State.drawLine_localAddress (s : State) : (s.drawLine).localAddress = s.localAddress := rfl
@[simp] theorem State.drawLine_networkId (s : State) : (s.drawLine).networkId = s.networkId := rfl
@[simp] theorem State.drawLine_promiscuous (s : State) : (s.drawLine).promiscuous = s.promiscuous := rfl
@[simp] theorem State.drawLine_powerLevel (s : State) : (s.drawLine).powerLevel = s.powerLevel := rfl
@[simp] theorem State.drawLine_slot (s : State) : (s.drawLine).slot = s.slot := rfl
@[simp] theorem State.drawLine_irqEnabled (s : State) : (s.drawLine).irqEnabled = s.irqEnabled := rfl
@[simp] theorem State.drawLine_irqPending (s : State) : (s.drawLine).irqPending = s.irqPending := rfl
@[simp] theorem State.drawLine_initialized (s : State) : (s.drawLine).initialized = s.initialized := rfl
@[simp] theorem State.drawLine_faulted (s : State) : (s.drawLine).faulted = s.faulted := rfl
@[simp] theorem State.drawLine_foreground (s : State) : (s.drawLine).foreground = s.foreground := rfl
@[simp] theorem State.drawLine_handler (s : State) : (s.drawLine).handler = s.handler := rfl
@[simp] theorem State.drawLine_saved (s : State) : (s.drawLine).saved = s.saved := rfl
@[simp] theorem State.drawLine_flag (s : State) : (s.drawLine).flag = s.flag := rfl
@[simp] theorem State.drawLine_window (s : State) : (s.drawLine).window = s.window := rfl
@[simp] theorem State.drawLine_result (s : State) : (s.drawLine).result = s.result := rfl
@[simp] theorem State.drawLine_port (s : State) : (s.drawLine).port = s.port := rfl
@[simp] theorem State.drawLine_trace (s : State) : (s.drawLine).trace = s.trace := rfl
@[simp] theorem State.drawLine_cfg (s : State) : (s.drawLine).cfg = s.cfg := rfl
@[simp] theorem State.drawLine_env (s : State) : (s.drawLine).env = { s.env with line := s.env.line.rest } := rfl

/-! ### `State.drawBlob` -/

@[simp] theorem State.drawBlob_mode (s : State) : (s.drawBlob).mode = s.mode := rfl
@[simp] theorem State.drawBlob_localAddress (s : State) : (s.drawBlob).localAddress = s.localAddress := rfl
@[simp] theorem State.drawBlob_networkId (s : State) : (s.drawBlob).networkId = s.networkId := rfl
@[simp] theorem State.drawBlob_promiscuous (s : State) : (s.drawBlob).promiscuous = s.promiscuous := rfl
@[simp] theorem State.drawBlob_powerLevel (s : State) : (s.drawBlob).powerLevel = s.powerLevel := rfl
@[simp] theorem State.drawBlob_slot (s : State) : (s.drawBlob).slot = s.slot := rfl
@[simp] theorem State.drawBlob_irqEnabled (s : State) : (s.drawBlob).irqEnabled = s.irqEnabled := rfl
@[simp] theorem State.drawBlob_irqPending (s : State) : (s.drawBlob).irqPending = s.irqPending := rfl
@[simp] theorem State.drawBlob_initialized (s : State) : (s.drawBlob).initialized = s.initialized := rfl
@[simp] theorem State.drawBlob_faulted (s : State) : (s.drawBlob).faulted = s.faulted := rfl
@[simp] theorem State.drawBlob_foreground (s : State) : (s.drawBlob).foreground = s.foreground := rfl
@[simp] theorem State.drawBlob_handler (s : State) : (s.drawBlob).handler = s.handler := rfl
@[simp] theorem State.drawBlob_saved (s : State) : (s.drawBlob).saved = s.saved := rfl
@[simp] theorem State.drawBlob_flag (s : State) : (s.drawBlob).flag = s.flag := rfl
@[simp] theorem State.drawBlob_window (s : State) : (s.drawBlob).window = s.window := rfl
@[simp] theorem State.drawBlob_result (s : State) : (s.drawBlob).result = s.result := rfl
@[simp] theorem State.drawBlob_port (s : State) : (s.drawBlob).port = s.port := rfl
@[simp] theorem State.drawBlob_trace (s : State) : (s.drawBlob).trace = s.trace := rfl
@[simp] theorem State.drawBlob_cfg (s : State) : (s.drawBlob).cfg = s.cfg := rfl
@[simp] theorem State.drawBlob_env (s : State) : (s.drawBlob).env = { s.env with blob := s.env.blob.rest } := rfl

/-! ### `State.enterCritical` -/

@[simp] theorem State.enterCritical_mode (s : State) : (s.enterCritical).mode = s.mode := rfl
@[simp] theorem State.enterCritical_localAddress (s : State) : (s.enterCritical).localAddress = s.localAddress := rfl
@[simp] theorem State.enterCritical_networkId (s : State) : (s.enterCritical).networkId = s.networkId := rfl
@[simp] theorem State.enterCritical_promiscuous (s : State) : (s.enterCritical).promiscuous = s.promiscuous := rfl
@[simp] theorem State.enterCritical_powerLevel (s : State) : (s.enterCritical).powerLevel = s.powerLevel := rfl
@[simp] theorem State.enterCritical_slot (s : State) : (s.enterCritical).slot = s.slot := rfl
@[simp] theorem State.enterCritical_irqEnabled (s : State) : (s.enterCritical).irqEnabled = false := rfl
@[simp] theorem State.enterCritical_irqPending (s : State) : (s.enterCritical).irqPending = s.irqPending := rfl
@[simp] theorem State.enterCritical_initialized (s : State) : (s.enterCritical).initialized = s.initialized := rfl
@[simp] theorem State.enterCritical_faulted (s : State) : (s.enterCritical).faulted = s.faulted := rfl
@[simp] theorem State.enterCritical_foreground (s : State) : (s.enterCritical).foreground = s.foreground := rfl
@[simp] theorem State.enterCritical_handler (s : State) : (s.enterCritical).handler = s.handler := rfl
@[simp] theorem State.enterCritical_saved (s : State) : (s.enterCritical).saved = s.irqEnabled :: s.saved := rfl
@[simp] theorem State.enterCritical_flag (s : State) : (s.enterCritical).flag = s.flag := rfl
@[simp] theorem State.enterCritical_window (s : State) : (s.enterCritical).window = s.window := rfl
@[simp] theorem State.enterCritical_result (s : State) : (s.enterCritical).result = s.result := rfl
@[simp] theorem State.enterCritical_port (s : State) : (s.enterCritical).port = s.port := rfl
@[simp] theorem State.enterCritical_trace (s : State) : (s.enterCritical).trace = s.trace := rfl
@[simp] theorem State.enterCritical_cfg (s : State) : (s.enterCritical).cfg = s.cfg := rfl
@[simp] theorem State.enterCritical_env (s : State) : (s.enterCritical).env = s.env := rfl

/-! ### `State.edge` -/

@[simp] theorem State.edge_mode (s : State) : (s.edge).mode = s.mode := rfl
@[simp] theorem State.edge_localAddress (s : State) : (s.edge).localAddress = s.localAddress := rfl
@[simp] theorem State.edge_networkId (s : State) : (s.edge).networkId = s.networkId := rfl
@[simp] theorem State.edge_promiscuous (s : State) : (s.edge).promiscuous = s.promiscuous := rfl
@[simp] theorem State.edge_powerLevel (s : State) : (s.edge).powerLevel = s.powerLevel := rfl
@[simp] theorem State.edge_slot (s : State) : (s.edge).slot = s.slot := rfl
@[simp] theorem State.edge_irqEnabled (s : State) : (s.edge).irqEnabled = s.irqEnabled := rfl
@[simp] theorem State.edge_irqPending (s : State) : (s.edge).irqPending = true := rfl
@[simp] theorem State.edge_initialized (s : State) : (s.edge).initialized = s.initialized := rfl
@[simp] theorem State.edge_faulted (s : State) : (s.edge).faulted = s.faulted := rfl
@[simp] theorem State.edge_foreground (s : State) : (s.edge).foreground = s.foreground := rfl
@[simp] theorem State.edge_handler (s : State) : (s.edge).handler = s.handler := rfl
@[simp] theorem State.edge_saved (s : State) : (s.edge).saved = s.saved := rfl
@[simp] theorem State.edge_flag (s : State) : (s.edge).flag = s.flag := rfl
@[simp] theorem State.edge_window (s : State) : (s.edge).window = s.window := rfl
@[simp] theorem State.edge_result (s : State) : (s.edge).result = s.result := rfl
@[simp] theorem State.edge_port (s : State) : (s.edge).port = s.port := rfl
@[simp] theorem State.edge_trace (s : State) : (s.edge).trace = s.trace := rfl
@[simp] theorem State.edge_cfg (s : State) : (s.edge).cfg = s.cfg := rfl
@[simp] theorem State.edge_env (s : State) : (s.edge).env = s.env := rfl

/-! ### `State.enterInterrupt` -/

@[simp] theorem State.enterInterrupt_mode (s : State) : (s.enterInterrupt).mode = s.mode := rfl
@[simp] theorem State.enterInterrupt_localAddress (s : State) : (s.enterInterrupt).localAddress = s.localAddress := rfl
@[simp] theorem State.enterInterrupt_networkId (s : State) : (s.enterInterrupt).networkId = s.networkId := rfl
@[simp] theorem State.enterInterrupt_promiscuous (s : State) : (s.enterInterrupt).promiscuous = s.promiscuous := rfl
@[simp] theorem State.enterInterrupt_powerLevel (s : State) : (s.enterInterrupt).powerLevel = s.powerLevel := rfl
@[simp] theorem State.enterInterrupt_slot (s : State) : (s.enterInterrupt).slot = s.slot := rfl
@[simp] theorem State.enterInterrupt_irqEnabled (s : State) : (s.enterInterrupt).irqEnabled = false := rfl
@[simp] theorem State.enterInterrupt_irqPending (s : State) : (s.enterInterrupt).irqPending = false := rfl
@[simp] theorem State.enterInterrupt_initialized (s : State) : (s.enterInterrupt).initialized = s.initialized := rfl
@[simp] theorem State.enterInterrupt_faulted (s : State) : (s.enterInterrupt).faulted = s.faulted := rfl
@[simp] theorem State.enterInterrupt_foreground (s : State) : (s.enterInterrupt).foreground = s.foreground := rfl
@[simp] theorem State.enterInterrupt_handler (s : State) : (s.enterInterrupt).handler = handlerProgram ++ s.handler := rfl
@[simp] theorem State.enterInterrupt_saved (s : State) : (s.enterInterrupt).saved = s.saved := rfl
@[simp] theorem State.enterInterrupt_flag (s : State) : (s.enterInterrupt).flag = s.flag := rfl
@[simp] theorem State.enterInterrupt_window (s : State) : (s.enterInterrupt).window = s.window := rfl
@[simp] theorem State.enterInterrupt_result (s : State) : (s.enterInterrupt).result = s.result := rfl
@[simp] theorem State.enterInterrupt_port (s : State) : (s.enterInterrupt).port = s.port := rfl
@[simp] theorem State.enterInterrupt_trace (s : State) : (s.enterInterrupt).trace = s.trace := rfl
@[simp] theorem State.enterInterrupt_cfg (s : State) : (s.enterInterrupt).cfg = s.cfg := rfl
@[simp] theorem State.enterInterrupt_env (s : State) : (s.enterInterrupt).env = s.env := rfl

/-! ### `State.returnFromInterrupt` -/

@[simp] theorem State.returnFromInterrupt_mode (s : State) : (s.returnFromInterrupt).mode = s.mode := rfl
@[simp] theorem State.returnFromInterrupt_localAddress (s : State) : (s.returnFromInterrupt).localAddress = s.localAddress := rfl
@[simp] theorem State.returnFromInterrupt_networkId (s : State) : (s.returnFromInterrupt).networkId = s.networkId := rfl
@[simp] theorem State.returnFromInterrupt_promiscuous (s : State) : (s.returnFromInterrupt).promiscuous = s.promiscuous := rfl
@[simp] theorem State.returnFromInterrupt_powerLevel (s : State) : (s.returnFromInterrupt).powerLevel = s.powerLevel := rfl
@[simp] theorem State.returnFromInterrupt_slot (s : State) : (s.returnFromInterrupt).slot = s.slot := rfl
@[simp] theorem State.returnFromInterrupt_irqEnabled (s : State) : (s.returnFromInterrupt).irqEnabled = true := rfl
@[simp] theorem State.returnFromInterrupt_irqPending (s : State) : (s.returnFromInterrupt).irqPending = s.irqPending := rfl
@[simp] theorem State.returnFromInterrupt_initialized (s : State) : (s.returnFromInterrupt).initialized = s.initialized := rfl
@[simp] theorem State.returnFromInterrupt_faulted (s : State) : (s.returnFromInterrupt).faulted = s.faulted := rfl
@[simp] theorem State.returnFromInterrupt_foreground (s : State) : (s.returnFromInterrupt).foreground = s.foreground := rfl
@[simp] theorem State.returnFromInterrupt_handler (s : State) : (s.returnFromInterrupt).handler = s.handler := rfl
@[simp] theorem State.returnFromInterrupt_saved (s : State) : (s.returnFromInterrupt).saved = s.saved := rfl
@[simp] theorem State.returnFromInterrupt_flag (s : State) : (s.returnFromInterrupt).flag = s.flag := rfl
@[simp] theorem State.returnFromInterrupt_window (s : State) : (s.returnFromInterrupt).window = s.window := rfl
@[simp] theorem State.returnFromInterrupt_result (s : State) : (s.returnFromInterrupt).result = s.result := rfl
@[simp] theorem State.returnFromInterrupt_port (s : State) : (s.returnFromInterrupt).port = s.port := rfl
@[simp] theorem State.returnFromInterrupt_trace (s : State) : (s.returnFromInterrupt).trace = s.trace := rfl
@[simp] theorem State.returnFromInterrupt_cfg (s : State) : (s.returnFromInterrupt).cfg = s.cfg := rfl
@[simp] theorem State.returnFromInterrupt_env (s : State) : (s.returnFromInterrupt).env = s.env := rfl

/-! ### `State.closeWindow` -/

@[simp] theorem State.closeWindow_mode (s : State) : (s.closeWindow).mode = s.mode := rfl
@[simp] theorem State.closeWindow_localAddress (s : State) : (s.closeWindow).localAddress = s.localAddress := rfl
@[simp] theorem State.closeWindow_networkId (s : State) : (s.closeWindow).networkId = s.networkId := rfl
@[simp] theorem State.closeWindow_promiscuous (s : State) : (s.closeWindow).promiscuous = s.promiscuous := rfl
@[simp] theorem State.closeWindow_powerLevel (s : State) : (s.closeWindow).powerLevel = s.powerLevel := rfl
@[simp] theorem State.closeWindow_slot (s : State) : (s.closeWindow).slot = s.slot := rfl
@[simp] theorem State.closeWindow_irqEnabled (s : State) : (s.closeWindow).irqEnabled = s.irqEnabled := rfl
@[simp] theorem State.closeWindow_irqPending (s : State) : (s.closeWindow).irqPending = s.irqPending := rfl
@[simp] theorem State.closeWindow_initialized (s : State) : (s.closeWindow).initialized = s.initialized := rfl
@[simp] theorem State.closeWindow_faulted (s : State) : (s.closeWindow).faulted = s.faulted := rfl
@[simp] theorem State.closeWindow_foreground (s : State) : (s.closeWindow).foreground = s.foreground := rfl
@[simp] theorem State.closeWindow_handler (s : State) : (s.closeWindow).handler = s.handler := rfl
@[simp] theorem State.closeWindow_saved (s : State) : (s.closeWindow).saved = s.saved := rfl
@[simp] theorem State.closeWindow_flag (s : State) : (s.closeWindow).flag = s.flag := rfl
@[simp] theorem State.closeWindow_window (s : State) : (s.closeWindow).window = false := rfl
@[simp] theorem State.closeWindow_result (s : State) : (s.closeWindow).result = s.result := rfl
@[simp] theorem State.closeWindow_port (s : State) : (s.closeWindow).port = s.port := rfl
@[simp] theorem State.closeWindow_trace (s : State) : (s.closeWindow).trace = s.trace := rfl
@[simp] theorem State.closeWindow_cfg (s : State) : (s.closeWindow).cfg = s.cfg := rfl
@[simp] theorem State.closeWindow_env (s : State) : (s.closeWindow).env = s.env := rfl

/-! ### `State.openWindow` -/

@[simp] theorem State.openWindow_mode (s : State) : (s.openWindow).mode = s.mode := rfl
@[simp] theorem State.openWindow_localAddress (s : State) : (s.openWindow).localAddress = s.localAddress := rfl
@[simp] theorem State.openWindow_networkId (s : State) : (s.openWindow).networkId = s.networkId := rfl
@[simp] theorem State.openWindow_promiscuous (s : State) : (s.openWindow).promiscuous = s.promiscuous := rfl
@[simp] theorem State.openWindow_powerLevel (s : State) : (s.openWindow).powerLevel = s.powerLevel := rfl
@[simp] theorem State.openWindow_slot (s : State) : (s.openWindow).slot = s.slot := rfl
@[simp] theorem State.openWindow_irqEnabled (s : State) : (s.openWindow).irqEnabled = s.irqEnabled := rfl
@[simp] theorem State.openWindow_irqPending (s : State) : (s.openWindow).irqPending = s.irqPending := rfl
@[simp] theorem State.openWindow_initialized (s : State) : (s.openWindow).initialized = s.initialized := rfl
@[simp] theorem State.openWindow_faulted (s : State) : (s.openWindow).faulted = s.faulted := rfl
@[simp] theorem State.openWindow_foreground (s : State) : (s.openWindow).foreground = s.foreground := rfl
@[simp] theorem State.openWindow_handler (s : State) : (s.openWindow).handler = s.handler := rfl
@[simp] theorem State.openWindow_saved (s : State) : (s.openWindow).saved = s.saved := rfl
@[simp] theorem State.openWindow_flag (s : State) : (s.openWindow).flag = s.flag := rfl
@[simp] theorem State.openWindow_window (s : State) : (s.openWindow).window = (s.mode == .standby) := rfl
@[simp] theorem State.openWindow_result (s : State) : (s.openWindow).result = s.result := rfl
@[simp] theorem State.openWindow_port (s : State) : (s.openWindow).port = s.port := rfl
@[simp] theorem State.openWindow_trace (s : State) : (s.openWindow).trace = s.trace := rfl
@[simp] theorem State.openWindow_cfg (s : State) : (s.openWindow).cfg = s.cfg := rfl
@[simp] theorem State.openWindow_env (s : State) : (s.openWindow).env = s.env := rfl

/-! ### `State.present` -/

@[simp] theorem State.present_mode (s : State) (r : Request) : (s.present r).mode = s.mode := rfl
@[simp] theorem State.present_localAddress (s : State) (r : Request) : (s.present r).localAddress = s.localAddress := rfl
@[simp] theorem State.present_networkId (s : State) (r : Request) : (s.present r).networkId = s.networkId := rfl
@[simp] theorem State.present_promiscuous (s : State) (r : Request) : (s.present r).promiscuous = s.promiscuous := rfl
@[simp] theorem State.present_powerLevel (s : State) (r : Request) : (s.present r).powerLevel = s.powerLevel := rfl
@[simp] theorem State.present_slot (s : State) (r : Request) : (s.present r).slot = s.slot := rfl
@[simp] theorem State.present_irqEnabled (s : State) (r : Request) : (s.present r).irqEnabled = s.irqEnabled := rfl
@[simp] theorem State.present_irqPending (s : State) (r : Request) : (s.present r).irqPending = false := rfl
@[simp] theorem State.present_initialized (s : State) (r : Request) : (s.present r).initialized = s.initialized := rfl
@[simp] theorem State.present_faulted (s : State) (r : Request) : (s.present r).faulted = s.faulted := rfl
@[simp] theorem State.present_foreground (s : State) (r : Request) : (s.present r).foreground = [] := rfl
@[simp] theorem State.present_handler (s : State) (r : Request) : (s.present r).handler = [] := rfl
@[simp] theorem State.present_saved (s : State) (r : Request) : (s.present r).saved = s.saved := rfl
@[simp] theorem State.present_flag (s : State) (r : Request) : (s.present r).flag = s.flag := rfl
@[simp] theorem State.present_window (s : State) (r : Request) : (s.present r).window = s.window := rfl
@[simp] theorem State.present_result (s : State) (r : Request) : (s.present r).result = s.result := rfl
@[simp] theorem State.present_port (s : State) (r : Request) : (s.present r).port = r :: s.port := rfl
@[simp] theorem State.present_trace (s : State) (r : Request) : (s.present r).trace = s.trace := rfl
@[simp] theorem State.present_cfg (s : State) (r : Request) : (s.present r).cfg = s.cfg := rfl
@[simp] theorem State.present_env (s : State) (r : Request) : (s.present r).env = { s.env with boundaries := [] } := rfl

/-! ### `State.exitCritical` -/

@[simp] theorem State.exitCritical_mode (s : State) : (s.exitCritical).mode = s.mode := by
  unfold State.exitCritical; split <;> rfl
@[simp] theorem State.exitCritical_localAddress (s : State) : (s.exitCritical).localAddress = s.localAddress := by
  unfold State.exitCritical; split <;> rfl
@[simp] theorem State.exitCritical_networkId (s : State) : (s.exitCritical).networkId = s.networkId := by
  unfold State.exitCritical; split <;> rfl
@[simp] theorem State.exitCritical_promiscuous (s : State) : (s.exitCritical).promiscuous = s.promiscuous := by
  unfold State.exitCritical; split <;> rfl
@[simp] theorem State.exitCritical_powerLevel (s : State) : (s.exitCritical).powerLevel = s.powerLevel := by
  unfold State.exitCritical; split <;> rfl
@[simp] theorem State.exitCritical_slot (s : State) : (s.exitCritical).slot = s.slot := by
  unfold State.exitCritical; split <;> rfl
@[simp] theorem State.exitCritical_irqPending (s : State) : (s.exitCritical).irqPending = s.irqPending := by
  unfold State.exitCritical; split <;> rfl
@[simp] theorem State.exitCritical_initialized (s : State) : (s.exitCritical).initialized = s.initialized := by
  unfold State.exitCritical; split <;> rfl
@[simp] theorem State.exitCritical_faulted (s : State) : (s.exitCritical).faulted = s.faulted := by
  unfold State.exitCritical; split <;> rfl
@[simp] theorem State.exitCritical_foreground (s : State) : (s.exitCritical).foreground = s.foreground := by
  unfold State.exitCritical; split <;> rfl
@[simp] theorem State.exitCritical_handler (s : State) : (s.exitCritical).handler = s.handler := by
  unfold State.exitCritical; split <;> rfl
@[simp] theorem State.exitCritical_flag (s : State) : (s.exitCritical).flag = s.flag := by
  unfold State.exitCritical; split <;> rfl
@[simp] theorem State.exitCritical_window (s : State) : (s.exitCritical).window = s.window := by
  unfold State.exitCritical; split <;> rfl
@[simp] theorem State.exitCritical_result (s : State) : (s.exitCritical).result = s.result := by
  unfold State.exitCritical; split <;> rfl
@[simp] theorem State.exitCritical_port (s : State) : (s.exitCritical).port = s.port := by
  unfold State.exitCritical; split <;> rfl
@[simp] theorem State.exitCritical_trace (s : State) : (s.exitCritical).trace = s.trace := by
  unfold State.exitCritical; split <;> rfl
@[simp] theorem State.exitCritical_cfg (s : State) : (s.exitCritical).cfg = s.cfg := by
  unfold State.exitCritical; split <;> rfl
@[simp] theorem State.exitCritical_env (s : State) : (s.exitCritical).env = s.env := by
  unfold State.exitCritical; split <;> rfl

/-! ### `State.push` -/

@[simp] theorem State.push_mode (s : State) (ctx : Context) (ms : List Micro) : (s.push ctx ms).mode = s.mode := by
  cases ctx <;> rfl
@[simp] theorem State.push_localAddress (s : State) (ctx : Context) (ms : List Micro) : (s.push ctx ms).localAddress = s.localAddress := by
  cases ctx <;> rfl
@[simp] theorem State.push_networkId (s : State) (ctx : Context) (ms : List Micro) : (s.push ctx ms).networkId = s.networkId := by
  cases ctx <;> rfl
@[simp] theorem State.push_promiscuous (s : State) (ctx : Context) (ms : List Micro) : (s.push ctx ms).promiscuous = s.promiscuous := by
  cases ctx <;> rfl
@[simp] theorem State.push_powerLevel (s : State) (ctx : Context) (ms : List Micro) : (s.push ctx ms).powerLevel = s.powerLevel := by
  cases ctx <;> rfl
@[simp] theorem State.push_slot (s : State) (ctx : Context) (ms : List Micro) : (s.push ctx ms).slot = s.slot := by
  cases ctx <;> rfl
@[simp] theorem State.push_irqEnabled (s : State) (ctx : Context) (ms : List Micro) : (s.push ctx ms).irqEnabled = s.irqEnabled := by
  cases ctx <;> rfl
@[simp] theorem State.push_irqPending (s : State) (ctx : Context) (ms : List Micro) : (s.push ctx ms).irqPending = s.irqPending := by
  cases ctx <;> rfl
@[simp] theorem State.push_initialized (s : State) (ctx : Context) (ms : List Micro) : (s.push ctx ms).initialized = s.initialized := by
  cases ctx <;> rfl
@[simp] theorem State.push_faulted (s : State) (ctx : Context) (ms : List Micro) : (s.push ctx ms).faulted = s.faulted := by
  cases ctx <;> rfl
@[simp] theorem State.push_saved (s : State) (ctx : Context) (ms : List Micro) : (s.push ctx ms).saved = s.saved := by
  cases ctx <;> rfl
@[simp] theorem State.push_flag (s : State) (ctx : Context) (ms : List Micro) : (s.push ctx ms).flag = s.flag := by
  cases ctx <;> rfl
@[simp] theorem State.push_window (s : State) (ctx : Context) (ms : List Micro) : (s.push ctx ms).window = s.window := by
  cases ctx <;> rfl
@[simp] theorem State.push_result (s : State) (ctx : Context) (ms : List Micro) : (s.push ctx ms).result = s.result := by
  cases ctx <;> rfl
@[simp] theorem State.push_port (s : State) (ctx : Context) (ms : List Micro) : (s.push ctx ms).port = s.port := by
  cases ctx <;> rfl
@[simp] theorem State.push_trace (s : State) (ctx : Context) (ms : List Micro) : (s.push ctx ms).trace = s.trace := by
  cases ctx <;> rfl
@[simp] theorem State.push_cfg (s : State) (ctx : Context) (ms : List Micro) : (s.push ctx ms).cfg = s.cfg := by
  cases ctx <;> rfl
@[simp] theorem State.push_env (s : State) (ctx : Context) (ms : List Micro) : (s.push ctx ms).env = s.env := by
  cases ctx <;> rfl

/-- Leaving a critical section restores what entering it saved (R47). -/
@[simp] theorem State.exitCritical_cons (s : State) (c : Bool) (outer : List Bool) (h : s.saved = c :: outer) :
    s.exitCritical = { s with saved := outer, irqEnabled := c } := by
  simp only [State.exitCritical, h]

/-- A critical section entered and left at once changes nothing (R47). -/
@[simp] theorem State.exitCritical_enterCritical (s : State) : s.enterCritical.exitCritical = s := rfl

@[simp] theorem State.push_fg (s : State) (ms : List Micro) :
    s.push .fg ms = { s with foreground := ms ++ s.foreground } := rfl

@[simp] theorem State.push_irq (s : State) (ms : List Micro) :
    s.push .irq ms = { s with handler := ms ++ s.handler } := rfl

/-- A field cleared is zero or false, and the other fields stay (R102). -/
@[simp] theorem Slot.clearField_payload (sl : Slot) (f : SlotField) : (sl.clearField f).payload = sl.payload := by
  cases f <;> rfl

@[simp] theorem Slot.store_payload (sl : Slot) (l t sn c : Byte) : (sl.store l t sn c).payload = sl.payload := rfl

@[simp] theorem Slot.store_pendingLength (sl : Slot) (l t sn c : Byte) : (sl.store l t sn c).pendingLength = l := rfl

@[simp] theorem Slot.store_payloadLength (sl : Slot) (l t sn c : Byte) :
    (sl.store l t sn c).payloadLength = payloadLengthOf l := rfl

@[simp] theorem Slot.store_rssi (sl : Slot) (l t sn c : Byte) : (sl.store l t sn c).rssi = sl.rssi := rfl

/-- The clears of `ReceiveSlotClear` together are the cleared slot (R135). -/
theorem Slot.clear_all (sl : Slot) :
    (((((sl.clearField .lengths).clearField .targetAddress).clearField .senderAddress).clearField .ackRequest).clearField
      .ackReply).clearField .rssi = sl.cleared := rfl

/-- A clearing leaves the pending length, or empties the slot (R18). -/
theorem Slot.clearField_pendingLength (sl : Slot) (f : SlotField) :
    (sl.clearField f).pendingLength = if f.empties then 0 else sl.pendingLength := by
  cases f <;> rfl

/-- A clearing leaves the payload length, or clears it together with the pending length (R18). -/
theorem Slot.clearField_payloadLength (sl : Slot) (f : SlotField) :
    (sl.clearField f).payloadLength = if f = .lengths then 0 else sl.payloadLength := by
  cases f <;> rfl

end Sys2Proof.Machine
end

