-- ==== Sys2Proof/Laws/Drive.lean ====
section
/-! SUPPORT. Running the engine where no interrupt cuts in: the answers of a source by number, a context's position put
aside (`atPos`), and one equation per kind of micro-step. -/

namespace Sys2Proof.Machine

/-! ### Answers by number -/

@[simp] theorem Source.rest_eq_drop {α : Type} (q : Source α) : q.rest = q.drop 1 := by
  simp [Source.rest, Source.drop, List.drop_one]

@[simp] theorem Source.drop_zero {α : Type} (q : Source α) : q.drop 0 = q := rfl

@[simp] theorem Source.drop_drop {α : Type} (q : Source α) (j k : Nat) : (q.drop j).drop k = q.drop (j + k) := by
  simp [Source.drop, Nat.add_assoc]

@[simp] theorem Source.drop_answer {α : Type} (q : Source α) (free : Nat → α) (k : Nat) :
    (q.drop k).answer free = q.answerAt free k := rfl

/-- The `k`th coming answer is the `k`th listed one, or the free value of its number. -/
theorem Source.answerAt_eq {α : Type} (q : Source α) (free : Nat → α) (k : Nat) :
    q.answerAt free k = (q.listed[k]?).getD (free (q.taken + k)) := by
  simp only [Source.answerAt, Source.answer, Source.drop]
  cases h : q.listed.drop k with
  | nil => simp [List.drop_eq_nil_iff.mp h]
  | cons a l =>
    have : q.listed[k]? = some a := by
      rw [← List.head?_drop, h, List.head?_cons]
    simp [this]

theorem State.readAnswer_eq (s : State) : s.readAnswer = s.readAt 0 := rfl

theorem State.lineAnswer_eq (s : State) : s.lineAnswer = s.lineAt 0 := rfl

@[simp] theorem State.io_zero (s : State) : s.io [] 0 = s := by
  simp [State.io]

@[simp] theorem State.io_io (s : State) (e e' : List BusEvent) (k k' : Nat) :
    (s.io e k).io e' k' = s.io (e ++ e') (k + k') := by
  simp [State.io]

@[simp] theorem State.io_readAt (s : State) (e : List BusEvent) (k j : Nat) :
    (s.io e k).readAt j = s.readAt (k + j) := by
  simp only [State.io, State.readAt, Source.answerAt, Source.drop_drop]

theorem State.regRead_eq (s : State) (ctx : Context) (a : Addr) :
    s.regRead ctx a = s.io [rd ctx a (s.readAt 0)] 1 := by
  simp [State.regRead, State.io, rd, State.readAnswer_eq]

theorem State.regWrite_eq (s : State) (ctx : Context) (a : Addr) (v : Byte) :
    s.regWrite ctx a v = s.io [wr ctx a v] 0 := by
  simp [State.regWrite, State.record, State.io, wr]

@[simp] theorem modified_eq (old keep set : Byte) : modified old keep set = (old &&& keep) ||| set := rfl

@[simp] theorem modified_or (old bit : Byte) : modified old 0xFF bit = old ||| bit := by
  rw [modified_eq, show (0xFF : Byte) = BitVec.allOnes 8 from rfl, BitVec.and_allOnes]

/-! ### A context's position -/

/-- The state with a context at a given position. -/
def State.atPos (s : State) (ctx : Context) (l : List Micro) : State :=
  match ctx with
  | .fg => { s with foreground := l }
  | .irq => { s with handler := l }

/-- The context runs and no interrupt can cut in: the foreground only while the interrupt context does not. -/
abbrev State.running (s : State) (ctx : Context) : Prop :=
  s.quiet ∧ s.faulted = false ∧ (ctx = .fg → s.handler = [])

theorem State.boundary_quiet (s : State) (h : s.quiet) : s.boundary = s := by
  simp [State.boundary, h.1, State.takeInterrupt, h.2]

@[simp] theorem State.atPos_push (s : State) (ctx : Context) (l ms : List Micro) :
    (s.atPos ctx l).push ctx ms = s.atPos ctx (ms ++ l) := by
  cases ctx <;> rfl

/-- One micro-step of a running context. -/
theorem drive_micro (s : State) (ctx : Context) (m : Micro) (rest : List Micro) (n : Nat) (h : s.running ctx) :
    drive (n + 1) (s.atPos ctx (m :: rest)) =
      match runMicro ctx m (s.atPos ctx rest) with
      | .next s' => drive n s'
      | .fault f => .fault f
      | .refused r => .refused r := by
  obtain ⟨hq, hf, hh⟩ := h
  have hb : (s.atPos ctx (m :: rest)).boundary = s.atPos ctx (m :: rest) :=
    State.boundary_quiet _ (by cases ctx <;> exact hq)
  have hs : (s.atPos ctx (m :: rest)).halted = false := by
    cases ctx <;> simp [State.halted, State.idle, State.atPos, hf]
  have ha : advance (s.atPos ctx (m :: rest)) = runMicro ctx m (s.atPos ctx rest) := by
    cases ctx
    · simp [advance, State.atPos, hh rfl]
    · simp [advance, State.atPos]
  simp only [drive, tick, hb, hs, ha]
  rfl

/-- A halted state is where a run ends. -/
theorem drive_halted (n : Nat) (s : State) (h : s.halted = true) : drive n s = .next s := by
  cases n with
  | zero => rfl
  | succ n => simp [drive, h]

/-- The end of a command: the foreground has come to the end of its program. -/
theorem drive_end (n : Nat) (s : State) (hf : s.handler = []) :
    drive n (s.atPos .fg []) = .next (s.atPos .fg []) :=
  drive_halted n _ (by simp [State.halted, State.idle, State.atPos, hf])

end Sys2Proof.Machine
end

