-- ==== Sys2Proof/Laws/Runs.lean ====
section
/-! SUPPORT. What each program of the rules does where no interrupt cuts in: its transactions, and the state it reaches
(`Reaches`), one lemma per program, in either context. -/

namespace Sys2Proof.Machine

/-- The engine comes from `s` to `t` in exactly `c` micro-steps. -/
def Runs (c : Nat) (s t : State) : Prop :=
  ∀ n, drive (n + c) s = drive n t

/-- The engine comes from `s` to `t` in at most `b` micro-steps. -/
def Reaches (b : Nat) (s t : State) : Prop :=
  ∃ c ≤ b, Runs c s t

theorem Reaches.refl (b : Nat) (s : State) : Reaches b s s :=
  ⟨0, Nat.zero_le b, fun _ => rfl⟩

theorem Reaches.trans {a b : Nat} {s t u : State} (h1 : Reaches a s t) (h2 : Reaches b t u) : Reaches (a + b) s u := by
  obtain ⟨c1, hc1, r1⟩ := h1
  obtain ⟨c2, hc2, r2⟩ := h2
  refine ⟨c1 + c2, by omega, fun n => ?_⟩
  rw [show n + (c1 + c2) = (n + c2) + c1 by omega, r1, r2]

theorem Reaches.mono {a b : Nat} {s t : State} (h : Reaches a s t) (hab : a ≤ b) : Reaches b s t := by
  obtain ⟨c, hc, r⟩ := h
  exact ⟨c, by omega, r⟩

/-- A run that ends in a halted state within the budget is the whole run. -/
theorem Reaches.drive_eq {b N : Nat} {s t : State} (h : Reaches b s t) (ht : t.halted = true) (hb : b ≤ N) :
    drive N s = .next t := by
  obtain ⟨c, hc, r⟩ := h
  rw [show N = (N - c) + c by omega, r, drive_halted _ _ ht]

/-- One micro-step that answers a next state. -/
theorem reaches_micro {ctx : Context} {s : State} {m : Micro} {rest : List Micro} {t : State} (h : s.running ctx)
    (hm : runMicro ctx m (s.atPos ctx rest) = .next t) : Reaches 1 (s.atPos ctx (m :: rest)) t :=
  ⟨1, Nat.le_refl 1, fun n => by rw [drive_micro s ctx m rest n h, hm]⟩

/-! ### Field setters, so that a run's end can be written without unfolding the state -/

/-- `S.mode <- m`. -/
def State.inMode (s : State) (m : RadioMode) : State := { s with mode := m }

/-- The slot and the reading window after an operation on the slot. -/
def State.withSlot (s : State) (sl : Slot) (w : Bool) : State := { s with slot := sl, window := w }

/-- The latest sub-operation's result. -/
def State.withFlag (s : State) (b : Bool) : State := { s with flag := b }

section
variable (s : State) (m : RadioMode) (sl : Slot) (w b : Bool) (e : List BusEvent) (k j : Nat) (ctx : Context)
  (l : List Micro)

@[simp] theorem State.io_inMode : (s.inMode m).io e k = (s.io e k).inMode m := rfl
@[simp] theorem State.io_withSlot : (s.withSlot sl w).io e k = (s.io e k).withSlot sl w := rfl
@[simp] theorem State.io_withFlag : (s.withFlag b).io e k = (s.io e k).withFlag b := rfl
@[simp] theorem State.io_polledLine : (s.polledLine j).io e k = (s.io e k).polledLine j := rfl
@[simp] theorem State.inMode_inMode (m' : RadioMode) : (s.inMode m).inMode m' = s.inMode m' := rfl
@[simp] theorem State.withFlag_withFlag (b' : Bool) : (s.withFlag b).withFlag b' = s.withFlag b' := rfl
@[simp] theorem State.withSlot_withSlot (sl' : Slot) (w' : Bool) :
    (s.withSlot sl w).withSlot sl' w' = s.withSlot sl' w' := rfl
@[simp] theorem State.withSlot_inMode : (s.inMode m).withSlot sl w = (s.withSlot sl w).inMode m := rfl
@[simp] theorem State.withFlag_inMode : (s.inMode m).withFlag b = (s.withFlag b).inMode m := rfl
@[simp] theorem State.withFlag_withSlot : (s.withSlot sl w).withFlag b = (s.withFlag b).withSlot sl w := rfl
@[simp] theorem State.polledLine_inMode : (s.inMode m).polledLine j = (s.polledLine j).inMode m := rfl
@[simp] theorem State.polledLine_withSlot : (s.withSlot sl w).polledLine j = (s.polledLine j).withSlot sl w := rfl
@[simp] theorem State.polledLine_withFlag : (s.withFlag b).polledLine j = (s.polledLine j).withFlag b := rfl
@[simp] theorem State.polledLine_polledLine (i : Nat) : (s.polledLine i).polledLine j = s.polledLine (i + j) := by
  simp [State.polledLine]

@[simp] theorem State.inMode_mode : (s.inMode m).mode = m := rfl
@[simp] theorem State.inMode_slot : (s.inMode m).slot = s.slot := rfl
@[simp] theorem State.inMode_cfg : (s.inMode m).cfg = s.cfg := rfl
@[simp] theorem State.inMode_flag : (s.inMode m).flag = s.flag := rfl
@[simp] theorem State.inMode_window : (s.inMode m).window = s.window := rfl
@[simp] theorem State.inMode_localAddress : (s.inMode m).localAddress = s.localAddress := rfl
@[simp] theorem State.inMode_promiscuous : (s.inMode m).promiscuous = s.promiscuous := rfl
@[simp] theorem State.inMode_handler : (s.inMode m).handler = s.handler := rfl
@[simp] theorem State.inMode_readAt : (s.inMode m).readAt k = s.readAt k := rfl
@[simp] theorem State.inMode_lineAt : (s.inMode m).lineAt k = s.lineAt k := rfl
@[simp] theorem State.withSlot_mode : (s.withSlot sl w).mode = s.mode := rfl
@[simp] theorem State.withSlot_slot : (s.withSlot sl w).slot = sl := rfl
@[simp] theorem State.withSlot_cfg : (s.withSlot sl w).cfg = s.cfg := rfl
@[simp] theorem State.withSlot_flag : (s.withSlot sl w).flag = s.flag := rfl
@[simp] theorem State.withSlot_window : (s.withSlot sl w).window = w := rfl
@[simp] theorem State.withSlot_handler : (s.withSlot sl w).handler = s.handler := rfl
@[simp] theorem State.withSlot_readAt : (s.withSlot sl w).readAt k = s.readAt k := rfl
@[simp] theorem State.withFlag_mode : (s.withFlag b).mode = s.mode := rfl
@[simp] theorem State.withFlag_slot : (s.withFlag b).slot = s.slot := rfl
@[simp] theorem State.withFlag_cfg : (s.withFlag b).cfg = s.cfg := rfl
@[simp] theorem State.withFlag_flag : (s.withFlag b).flag = b := rfl
@[simp] theorem State.withFlag_window : (s.withFlag b).window = s.window := rfl
@[simp] theorem State.withFlag_localAddress : (s.withFlag b).localAddress = s.localAddress := rfl
@[simp] theorem State.withFlag_handler : (s.withFlag b).handler = s.handler := rfl
@[simp] theorem State.withFlag_readAt : (s.withFlag b).readAt k = s.readAt k := rfl
@[simp] theorem State.withFlag_lineAt : (s.withFlag b).lineAt k = s.lineAt k := rfl
@[simp] theorem State.io_mode : (s.io e k).mode = s.mode := rfl
@[simp] theorem State.io_slot : (s.io e k).slot = s.slot := rfl
@[simp] theorem State.io_cfg : (s.io e k).cfg = s.cfg := rfl
@[simp] theorem State.io_flag : (s.io e k).flag = s.flag := rfl
@[simp] theorem State.io_window : (s.io e k).window = s.window := rfl
@[simp] theorem State.io_localAddress : (s.io e k).localAddress = s.localAddress := rfl
@[simp] theorem State.io_promiscuous : (s.io e k).promiscuous = s.promiscuous := rfl
@[simp] theorem State.io_handler : (s.io e k).handler = s.handler := rfl
@[simp] theorem State.io_lineAt : (s.io e k).lineAt j = s.lineAt j := rfl
@[simp] theorem State.polledLine_mode : (s.polledLine k).mode = s.mode := rfl
@[simp] theorem State.polledLine_cfg : (s.polledLine k).cfg = s.cfg := rfl
@[simp] theorem State.polledLine_handler : (s.polledLine k).handler = s.handler := rfl
@[simp] theorem State.polledLine_readAt : (s.polledLine k).readAt j = s.readAt j := rfl
@[simp] theorem State.polledLine_lineAt : (s.polledLine k).lineAt j = s.lineAt (k + j) := by
  simp only [State.polledLine, State.lineAt, Source.answerAt, Source.drop_drop]

@[simp] theorem State.atPos_mode : (s.atPos ctx l).mode = s.mode := by cases ctx <;> rfl
@[simp] theorem State.atPos_slot : (s.atPos ctx l).slot = s.slot := by cases ctx <;> rfl
@[simp] theorem State.atPos_cfg : (s.atPos ctx l).cfg = s.cfg := by cases ctx <;> rfl
@[simp] theorem State.atPos_flag : (s.atPos ctx l).flag = s.flag := by cases ctx <;> rfl
@[simp] theorem State.atPos_window : (s.atPos ctx l).window = s.window := by cases ctx <;> rfl
@[simp] theorem State.atPos_localAddress : (s.atPos ctx l).localAddress = s.localAddress := by cases ctx <;> rfl
@[simp] theorem State.atPos_promiscuous : (s.atPos ctx l).promiscuous = s.promiscuous := by cases ctx <;> rfl
@[simp] theorem State.atPos_readAt : (s.atPos ctx l).readAt k = s.readAt k := by cases ctx <;> rfl
@[simp] theorem State.atPos_lineAt : (s.atPos ctx l).lineAt k = s.lineAt k := by cases ctx <;> rfl
@[simp] theorem State.atPos_io : (s.atPos ctx l).io e k = (s.io e k).atPos ctx l := by cases ctx <;> rfl

@[simp] theorem State.io_setModeEvents (o t : RadioMode) (p n : Nat) :
    (s.io e k).setModeEvents ctx o t p n = s.setModeEvents ctx o t (k + p) n := by
  simp [State.setModeEvents, State.wakeEvents, Nat.add_assoc]

@[simp] theorem State.inMode_setModeEvents (o t : RadioMode) (p n : Nat) :
    (s.inMode m).setModeEvents ctx o t p n = s.setModeEvents ctx o t p n := rfl

@[simp] theorem State.withSlot_setModeEvents (o t : RadioMode) (p n : Nat) :
    (s.withSlot sl w).setModeEvents ctx o t p n = s.setModeEvents ctx o t p n := rfl

@[simp] theorem State.withFlag_setModeEvents (o t : RadioMode) (p n : Nat) :
    (s.withFlag b).setModeEvents ctx o t p n = s.setModeEvents ctx o t p n := rfl

end

/-! ### Ports and critical sections -/

variable {ctx : Context} {s : State} {rest : List Micro}

theorem reaches_regWrite (h : s.running ctx) (a : Addr) (v : Byte) :
    Reaches 1 (s.atPos ctx (.regWrite a v :: rest)) ((s.io [wr ctx a v] 0).atPos ctx rest) :=
  reaches_micro h (by simp [runMicro, State.regWrite_eq])

theorem reaches_modify (h : s.running ctx) (a : Addr) (keep set : Byte) :
    Reaches 2 (s.atPos ctx (.modify a keep set :: rest))
      ((s.io [rd ctx a (s.readAt 0), wr ctx a ((s.readAt 0 &&& keep) ||| set)] 1).atPos ctx rest) := by
  have h1 : Reaches 1 (s.atPos ctx (.modify a keep set :: rest))
      ((s.io [rd ctx a (s.readAt 0)] 1).atPos ctx (.regWrite a ((s.readAt 0 &&& keep) ||| set) :: rest)) :=
    reaches_micro h (by simp [runMicro, State.regRead_eq, State.readAnswer_eq])
  have h2 := reaches_regWrite (rest := rest) (s := s.io [rd ctx a (s.readAt 0)] 1) h a
    ((s.readAt 0 &&& keep) ||| set)
  simpa using h1.trans h2

theorem reaches_writes (h : s.running ctx) (l : List (Addr × Byte)) :
    Reaches l.length (s.atPos ctx (writes l ++ rest)) ((s.io (l.map (fun p => wr ctx p.1 p.2)) 0).atPos ctx rest) := by
  induction l generalizing s with
  | nil => simpa [writes] using Reaches.refl 0 _
  | cons p l ih =>
    have h1 := reaches_regWrite (rest := writes l ++ rest) h p.1 p.2
    have h2 := ih (s := s.io [wr ctx p.1 p.2] 0) h
    simpa [writes, Nat.add_comm] using h1.trans h2

theorem writes_fifo (c : Cfg) (bytes : List Byte) :
    fifoFill c bytes = writes (bytes.map (fun b => (c.regmap.aFifo, b))) := by
  simp [fifoFill, writes]

/-- A critical section around transactions leaves the enable as it was (R47). -/
theorem reaches_critical (h : s.running ctx) {body : List Micro} {b : Nat} {e : List BusEvent} {k : Nat}
    (hb : ∀ r, Reaches b (s.enterCritical.atPos ctx (body ++ r)) ((s.enterCritical.io e k).atPos ctx r)) :
    Reaches (b + 2) (s.atPos ctx (critical body ++ rest)) ((s.io e k).atPos ctx rest) := by
  have h1 : Reaches 1 (s.atPos ctx (.enterCritical :: (body ++ (.exitCritical :: rest))))
      (s.enterCritical.atPos ctx (body ++ (.exitCritical :: rest))) :=
    reaches_micro h (by cases ctx <;> rfl)
  have h3 : Reaches 1 ((s.enterCritical.io e k).atPos ctx (.exitCritical :: rest)) ((s.io e k).atPos ctx rest) :=
    reaches_micro (s := s.enterCritical.io e k) h (by cases ctx <;> rfl)
  have := (h1.trans (hb _)).trans h3
  simp only [critical, List.append_assoc, List.cons_append, List.nil_append] at this ⊢
  exact this.mono (by omega)

theorem reaches_critical_modify (h : s.running ctx) (a : Addr) (keep set : Byte) :
    Reaches 4 (s.atPos ctx (critical [.modify a keep set] ++ rest))
      ((s.io [rd ctx a (s.readAt 0), wr ctx a ((s.readAt 0 &&& keep) ||| set)] 1).atPos ctx rest) :=
  reaches_critical h (fun r => reaches_modify (s := s.enterCritical) (rest := r) h a keep set)

/-! ### SetMode (R80) -/

/-- The mode-ready wait that ends at its `n + 1`st status read (R84). -/
theorem reaches_waitModeReady (h : s.running ctx) (n : Nat)
    (hno : ∀ k < n, s.readAt k &&& s.cfg.regmap.bModeReady = 0) (hyes : s.readAt n &&& s.cfg.regmap.bModeReady ≠ 0) :
    Reaches (n + 1) (s.atPos ctx (.waitModeReady :: rest))
      ((s.io ((List.range (n + 1)).map (fun k => rd ctx s.cfg.regmap.aIrq1 (s.readAt k))) (n + 1)).atPos ctx rest) := by
  induction n generalizing s with
  | zero =>
    refine reaches_micro h ?_
    simp [runMicro, runWaitModeReady, State.regRead_eq, State.readAnswer_eq, statusSet]
    exact fun h' => absurd h' hyes
  | succ n ih =>
    have h0 := hno 0 (Nat.succ_pos n)
    have h1 : Reaches 1 (s.atPos ctx (.waitModeReady :: rest))
        ((s.io [rd ctx s.cfg.regmap.aIrq1 (s.readAt 0)] 1).atPos ctx (.waitModeReady :: rest)) :=
      reaches_micro h (by
        simp [runMicro, runWaitModeReady, State.regRead_eq, State.readAnswer_eq, statusSet, h0])
    have h2 := ih (s := s.io [rd ctx s.cfg.regmap.aIrq1 (s.readAt 0)] 1) h
      (fun k hk => by simpa [Nat.add_comm] using hno (k + 1) (by omega))
      (by simpa [Nat.add_comm] using hyes)
    have := h1.trans h2
    refine (Reaches.mono ?_ (b := n + 1 + 1) (Nat.le_of_eq (Nat.add_comm 1 (n + 1))))
    simpa [List.range_succ_eq_map (n := n + 1), Function.comp_def, Nat.add_comm 1] using this

/-- `SetMode` lines 9 and 10 (R80). -/
theorem reaches_wakeup (h : s.running ctx) (n : Nat) (hw : s.wakes s.mode 0 n) :
    Reaches (wakeReads s.mode n + 1) (s.atPos ctx (.waitIfSleep :: rest))
      ((s.io (s.wakeEvents ctx s.mode 0 n) (wakeReads s.mode n)).atPos ctx rest) := by
  by_cases hm : s.mode = .sleep
  · obtain ⟨_, hno, hyes⟩ := hw hm
    have h1 : Reaches 1 (s.atPos ctx (.waitIfSleep :: rest)) (s.atPos ctx (.waitModeReady :: rest)) :=
      reaches_micro h (by simp [runMicro, runWaitIfSleep, hm])
    have h2 := reaches_waitModeReady (rest := rest) h n (by simpa using hno) (by simpa using hyes)
    have h3 := (h1.trans h2).mono (b := wakeReads s.mode n + 1) (by simp only [wakeReads, hm, if_true]; omega)
    simpa [State.wakeEvents, wakeReads, hm] using h3
  · refine (reaches_micro h ?_).mono (by omega)
    simp [runMicro, runWaitIfSleep, hm, State.wakeEvents, wakeReads]

theorem modeEvents_length (ctx : Context) (c : Cfg) (m : RadioMode) (old : Byte) :
    (modeEvents ctx c m old).length = 2 + (tuningList c m).length := by
  simp [modeEvents, rmwEvents]; omega

theorem tuningList_le (c : Cfg) (m : RadioMode) :
    (tuningList c m).length ≤ c.paTuneOn.length + c.paTuneOff.length := by
  unfold tuningList Cfg.paTune
  split <;> simp

/-- The micro-steps a `SetMode` needs at most. -/
def setModeCost (c : Cfg) (n : Nat) : Nat :=
  9 + (c.paTuneOn.length + c.paTuneOff.length) + n

/-- A transition to another mode (R80 lines 3 to 11, R81). -/
theorem reaches_transition (h : s.running ctx) (m : RadioMode) (n : Nat) (hw : s.wakes s.mode 1 n) :
    Reaches (8 + (s.cfg.paTuneOn.length + s.cfg.paTuneOff.length) + n)
      (s.atPos ctx (transition s.cfg m ++ rest))
      (((s.io (modeEvents ctx s.cfg m (s.readAt 0) ++ s.wakeEvents ctx s.mode 1 n) (1 + wakeReads s.mode n)).inMode
        m).atPos ctx rest) := by
  have h1 := reaches_critical_modify (rest := writes (tuningList s.cfg m) ++ (.waitIfSleep :: .storeMode m :: rest)) h
    s.cfg.regmap.aOpmode (~~~s.cfg.regmap.mMode) (s.cfg.regmap.vMode m)
  set e1 := [rd ctx s.cfg.regmap.aOpmode (s.readAt 0), wr ctx s.cfg.regmap.aOpmode
    ((s.readAt 0 &&& ~~~s.cfg.regmap.mMode) ||| s.cfg.regmap.vMode m)] with he1
  have h2 := reaches_writes (rest := .waitIfSleep :: .storeMode m :: rest) (s := s.io e1 1) h (tuningList s.cfg m)
  have h3 := reaches_wakeup (rest := .storeMode m :: rest)
    (s := (s.io e1 1).io ((tuningList s.cfg m).map (fun p => wr ctx p.1 p.2)) 0) h n
    (by intro hm; simpa [Nat.add_comm 1] using hw hm)
  have h4 : ∀ u : State, u.running ctx →
      Reaches 1 (u.atPos ctx (.storeMode m :: rest)) ((u.inMode m).atPos ctx rest) := fun u hu =>
    reaches_micro hu (by cases ctx <;> rfl)
  have := ((h1.trans h2).trans h3).trans (h4 _ h)
  have hl := tuningList_le s.cfg m
  have hwr : wakeReads s.mode n ≤ n + 1 := by unfold wakeReads; split <;> omega
  refine (Reaches.mono ?_ (a := 4 + (tuningList s.cfg m).length + (wakeReads s.mode n + 1) + 1) (by omega))
  simpa [transition, modifyField, modeEvents, rmwEvents, he1, State.wakeEvents, Nat.add_assoc] using this

/-- `SetMode(t)` for a recognized target (R80). -/
theorem reaches_setMode (h : s.running ctx) (t : BitVec 3) (m : RadioMode) (ht : modeOf t = some m) (n : Nat)
    (hw : s.wakes s.mode 1 n) :
    Reaches (setModeCost s.cfg n) (s.atPos ctx (.setMode t :: rest))
      (((s.io (s.setModeEvents ctx s.mode m 0 n) (setModeReads s.mode m n)).inMode m).atPos ctx rest) := by
  by_cases hm : s.mode = m
  · refine (reaches_micro h ?_).mono (b := setModeCost s.cfg n) (by unfold setModeCost; omega)
    have : s.inMode m = s := by subst hm; rfl
    simp [runMicro, runSetMode, ht, hm, State.setModeEvents, setModeReads, this]
  · have h1 : Reaches 1 (s.atPos ctx (.setMode t :: rest)) (s.atPos ctx (transition s.cfg m ++ rest)) :=
      reaches_micro h (by simp [runMicro, runSetMode, ht, Ne.symm hm])
    refine (Reaches.mono ?_ (a := 1 + (8 + (s.cfg.paTuneOn.length + s.cfg.paTuneOff.length) + n))
      (by unfold setModeCost; omega))
    simpa [State.setModeEvents, setModeReads, hm] using h1.trans (reaches_transition h m n hw)

/-- `SetMode(t)` for an unrecognized target: nothing happens (R82). -/
theorem reaches_setMode_unrecognized (h : s.running ctx) (t : BitVec 3) (ht : modeOf t = none) :
    Reaches 1 (s.atPos ctx (.setMode t :: rest)) (s.atPos ctx rest) :=
  reaches_micro h (by simp [runMicro, runSetMode, ht])

end Sys2Proof.Machine
end

