-- ==== Sys2Proof/Laws/Programs.lean ====
section
/-! SUPPORT. What the longer programs do where no interrupt cuts in: `ReceiveBegin` (R102), `ReceiveDone` (R103), `CanSend`
and the spin loop (R110, R113), `SendFrame` and `Send` (R116, R115). -/

namespace Sys2Proof.Machine

variable {ctx : Context} {s : State} {rest : List Micro}

@[simp] theorem modeOf_one : modeOf 1 = some .standby := rfl
@[simp] theorem modeOf_three : modeOf 3 = some .receive := rfl
@[simp] theorem modeOf_four : modeOf 4 = some .transmit := rfl

@[simp] theorem State.io_rearmStatusReads (s : State) (e : List BusEvent) (k p : Nat) :
    (s.io e k).rearmStatusReads p = s.rearmStatusReads (k + p) := by
  simp [State.rearmStatusReads, State.staleAt]

@[simp] theorem State.io_rearmReads (s : State) (e : List BusEvent) (k : Nat) (o : RadioMode) (p n : Nat) :
    (s.io e k).rearmReads o p n = s.rearmReads o (k + p) n := by
  simp [State.rearmReads]

@[simp] theorem State.io_rearmEvents (s : State) (e : List BusEvent) (k : Nat) (ctx : Context) (o : RadioMode)
    (p n : Nat) : (s.io e k).rearmEvents ctx o p n = s.rearmEvents ctx o (k + p) n := by
  simp [State.rearmEvents, State.staleAt, Nat.add_assoc]

/-- Clearing fields one after the other. -/
theorem reaches_clearFields (h : s.running ctx) (fs : List SlotField) :
    Reaches fs.length (s.atPos ctx (fs.map Micro.clearField ++ rest))
      ((s.withSlot (fs.foldl Slot.clearField s.slot) (s.window && fs.all (!·.empties))).atPos ctx rest) := by
  induction fs generalizing s with
  | nil =>
    have : s.withSlot s.slot s.window = s := rfl
    simpa [this] using Reaches.refl 0 _
  | cons f fs ih =>
    have h1 : Reaches 1 (s.atPos ctx (.clearField f :: (fs.map Micro.clearField ++ rest)))
        ((s.withSlot (s.slot.clearField f) (s.window && !f.empties)).atPos ctx
          (fs.map Micro.clearField ++ rest)) := reaches_micro h (by cases ctx <;> rfl)
    have h2 := ih (s := s.withSlot (s.slot.clearField f) (s.window && !f.empties)) h
    have := (h1.trans h2).mono (b := fs.length + 1) (by omega)
    simpa [Bool.and_assoc] using this

/-- `ReceiveSlotClear()` (R135). -/
theorem reaches_receiveSlotClear (h : s.running ctx) :
    Reaches 6 (s.atPos ctx (receiveSlotClear ++ rest)) ((s.withSlot s.slot.cleared false).atPos ctx rest) := by
  have := reaches_clearFields (rest := rest) h [.lengths, .targetAddress, .senderAddress, .ackRequest, .ackReply, .rssi]
  rw [show (s.window && [SlotField.lengths, .targetAddress, .senderAddress, .ackRequest, .ackReply, .rssi].all
    (!·.empties)) = false from Bool.and_false _] at this
  exact this

/-- The micro-steps a `ReceiveBegin` needs at most. -/
def rearmCost (c : Cfg) (n : Nat) : Nat :=
  10 + setModeCost c n

/-- `ReceiveBegin()` (R102). -/
theorem reaches_receiveBegin (h : s.running ctx) (n : Nat) (hw : s.wakes s.mode (s.rearmStatusReads 0 + 1) n) :
    Reaches (rearmCost s.cfg n) (s.atPos ctx (receiveBegin s.cfg ++ rest))
      ((((s.io (s.rearmEvents ctx s.mode 0 n) (s.rearmReads s.mode 0 n)).withSlot s.slot.cleared false).inMode
        .receive).atPos ctx rest) := by
  set u := s.withSlot s.slot.cleared false with hu
  have h1 := reaches_receiveSlotClear
    (rest := .restartIfStale :: .regWrite s.cfg.regmap.aDiomap s.cfg.regmap.vDioRx :: .setMode 3 :: rest) h
  set e := rd ctx s.cfg.regmap.aIrq2 (s.readAt 0) ::
    (if s.staleAt 0 then restartEvents ctx s.cfg (s.readAt 1) else []) with he
  have h2 : Reaches 3
      (u.atPos ctx (.restartIfStale :: .regWrite s.cfg.regmap.aDiomap s.cfg.regmap.vDioRx :: .setMode 3 :: rest))
      ((u.io e (s.rearmStatusReads 0)).atPos ctx
        (.regWrite s.cfg.regmap.aDiomap s.cfg.regmap.vDioRx :: .setMode 3 :: rest)) := by
    cases hst : s.staleAt 0
    · refine Reaches.mono (a := 1) (reaches_micro h ?_) (by omega)
      have hb : ¬ (s.readAt 0 &&& s.cfg.regmap.bPayloadReady ≠ 0) := by simpa [State.staleAt] using hst
      simp [runMicro, runRestartIfStale, State.regRead_eq, State.readAnswer_eq, statusSet, hu, he, hst,
        State.rearmStatusReads]
      intro hb'; exact absurd hb' hb
    · have hb : s.readAt 0 &&& s.cfg.regmap.bPayloadReady ≠ 0 := by simpa [State.staleAt] using hst
      have g1 : Reaches 1
          (u.atPos ctx (.restartIfStale :: .regWrite s.cfg.regmap.aDiomap s.cfg.regmap.vDioRx :: .setMode 3 :: rest))
          ((u.io [rd ctx s.cfg.regmap.aIrq2 (s.readAt 0)] 1).atPos ctx
            (.modify s.cfg.regmap.aPktcfg 0xFF s.cfg.regmap.bRestartRx ::
              .regWrite s.cfg.regmap.aDiomap s.cfg.regmap.vDioRx :: .setMode 3 :: rest)) := by
        refine reaches_micro h ?_
        simp [runMicro, runRestartIfStale, State.regRead_eq, State.readAnswer_eq, statusSet, hu, modifyOr]
        intro hb'; exact absurd hb' hb
      have g2 := reaches_modify (rest := .regWrite s.cfg.regmap.aDiomap s.cfg.regmap.vDioRx :: .setMode 3 :: rest)
        (s := u.io [rd ctx s.cfg.regmap.aIrq2 (s.readAt 0)] 1) h s.cfg.regmap.aPktcfg 0xFF s.cfg.regmap.bRestartRx
      have g := g1.trans g2
      rw [show ∀ v : Byte, v &&& 0xFF = v from fun v => BitVec.and_allOnes] at g
      simpa [hu, he, hst, State.rearmStatusReads, restartEvents] using g
  have h3 := reaches_regWrite (rest := .setMode 3 :: rest) (s := u.io e (s.rearmStatusReads 0)) h
    s.cfg.regmap.aDiomap s.cfg.regmap.vDioRx
  have h4 := reaches_setMode (rest := rest)
    (s := (u.io e (s.rearmStatusReads 0)).io [wr ctx s.cfg.regmap.aDiomap s.cfg.regmap.vDioRx] 0) h 3 .receive rfl n
    (fun hh => by simpa [hu, Nat.add_assoc] using hw (by simpa [hu] using hh))
  have := ((h1.trans h2).trans h3).trans h4
  refine Reaches.mono ?_ (a := 6 + 3 + 1 + setModeCost s.cfg n) (by unfold rearmCost; omega)
  simpa [receiveBegin, hu, he, State.rearmEvents, State.rearmReads] using this

/-- `ReceiveDone()` that finds a frame: Standby, and true (R103 lines 3 to 5). -/
theorem reaches_receiveDone_found (h : s.running ctx) (hm : s.mode = .receive) (hp : s.slot.pending = true) :
    Reaches (4 + setModeCost s.cfg 0) (s.atPos ctx (receiveDone ++ rest))
      ((((s.io (modeEvents ctx s.cfg .standby (s.readAt 0)) 1).withFlag true).inMode .standby).atPos ctx rest) := by
  have h1 : Reaches 1 (s.atPos ctx (receiveDone ++ rest)) (s.enterCritical.atPos ctx (.receiveTest :: rest)) :=
    reaches_micro h (by cases ctx <;> rfl)
  have h2 : Reaches 1 (s.enterCritical.atPos ctx (.receiveTest :: rest))
      (s.enterCritical.atPos ctx (.setMode 1 :: .exitCritical :: .ret true :: rest)) :=
    reaches_micro (s := s.enterCritical) h (by simp [runMicro, runReceiveTest, hm, hp, receiveDoneFound])
  have h3 := reaches_setMode (rest := .exitCritical :: .ret true :: rest) (s := s.enterCritical) h 1 .standby rfl 0
    (by simp [hm])
  have h4 : Reaches 1 _ ((((s.io (modeEvents ctx s.cfg .standby (s.readAt 0)) 1)).inMode .standby).atPos ctx
      (.ret true :: rest)) :=
    reaches_micro (m := .exitCritical) (rest := .ret true :: rest)
      (s := ((s.enterCritical.io (modeEvents ctx s.cfg .standby (s.readAt 0)) 1)).inMode .standby) h
      (by cases ctx <;> rfl)
  have h5 : Reaches 1 _ ((((s.io (modeEvents ctx s.cfg .standby (s.readAt 0)) 1).withFlag true).inMode
      .standby).atPos ctx rest) :=
    reaches_micro (m := .ret true) (rest := rest)
      (s := ((s.io (modeEvents ctx s.cfg .standby (s.readAt 0)) 1)).inMode .standby) h (by cases ctx <;> rfl)
  have e3 : (s.enterCritical.setModeEvents ctx .receive .standby 0 0) = modeEvents ctx s.cfg .standby (s.readAt 0) := by
    simp [State.setModeEvents, State.wakeEvents, wakeReads]; rfl
  simp only [State.enterCritical_mode, State.enterCritical_cfg, hm, e3, setModeReads, wakeReads] at h3
  have := (((h1.trans h2).trans h3).trans h4).trans h5
  exact this.mono (by omega)

/-- `ReceiveDone()` that finds no frame: the re-arm, and false (R103 lines 6 to 8). -/
theorem reaches_receiveDone_rearm (h : s.running ctx) (hm : ¬(s.mode = .receive ∧ s.slot.pending = true)) (n : Nat)
    (hw : s.wakes s.mode (s.rearmStatusReads 0 + 1) n) :
    Reaches (4 + rearmCost s.cfg n) (s.atPos ctx (receiveDone ++ rest))
      (((((s.io (s.rearmEvents ctx s.mode 0 n) (s.rearmReads s.mode 0 n)).withFlag false).withSlot s.slot.cleared
        false).inMode .receive).atPos ctx rest) := by
  have h1 : Reaches 1 (s.atPos ctx (receiveDone ++ rest)) (s.enterCritical.atPos ctx (.receiveTest :: rest)) :=
    reaches_micro h (by cases ctx <;> rfl)
  have hm' : (decide (s.mode = .receive) && s.slot.pending) = false := by
    simpa using hm
  have h2 : Reaches 1 (s.enterCritical.atPos ctx (.receiveTest :: rest))
      (s.enterCritical.atPos ctx (receiveBegin s.cfg ++ (.exitCritical :: .ret false :: rest))) :=
    reaches_micro (s := s.enterCritical) h
      (by
        simp only [runMicro, runReceiveTest, State.atPos_mode, State.atPos_slot, State.enterCritical_mode,
          State.enterCritical_slot, hm', State.atPos_push, State.atPos_cfg, State.enterCritical_cfg, receiveDoneRearm]
        simp)
  have h3 := reaches_receiveBegin (rest := .exitCritical :: .ret false :: rest) (s := s.enterCritical) h n hw
  set v := (((s.io (s.rearmEvents ctx s.mode 0 n) (s.rearmReads s.mode 0 n)).withSlot s.slot.cleared false).inMode
        .receive) with hv
  have h4 : Reaches 1 ((((s.enterCritical.io (s.rearmEvents ctx s.mode 0 n)
      (s.rearmReads s.mode 0 n)).withSlot s.slot.cleared false).inMode .receive).atPos ctx
      (.exitCritical :: .ret false :: rest)) (v.atPos ctx (.ret false :: rest)) :=
    reaches_micro (m := .exitCritical) (rest := .ret false :: rest)
      (s := (((s.enterCritical.io (s.rearmEvents ctx s.mode 0 n) (s.rearmReads s.mode 0 n)).withSlot
        s.slot.cleared false).inMode .receive)) h (by cases ctx <;> rfl)
  have h5 : Reaches 1 (v.atPos ctx (.ret false :: rest)) ((v.withFlag false).atPos ctx rest) :=
    reaches_micro (m := .ret false) (rest := rest) (s := v) h (by cases ctx <;> rfl)
  exact ((((h1.trans h2).trans h3).trans h4).trans h5).mono
    (by simp only [State.enterCritical_cfg]; omega)

/-- `CanSend()` in a mode other than Receive: true exactly in Standby (R110 lines 8 and 9). -/
theorem reaches_canSend_other (h : s.running ctx) (hm : s.mode ≠ .receive) :
    Reaches 2 (s.atPos ctx (.canSendMode :: rest)) ((s.withFlag (decide (s.mode = .standby))).atPos ctx rest) := by
  have h1 : Reaches 1 (s.atPos ctx (.canSendMode :: rest)) (s.atPos ctx (.canSendStandby :: rest)) :=
    reaches_micro h (by simp [runMicro, runCanSendMode, hm])
  exact h1.trans (reaches_micro h (by cases ctx <;> rfl))

/-- `CanSend()` in Receive with a frame pending: false, nothing measured (R110 lines 2 and 7). -/
theorem reaches_canSend_pending (h : s.running ctx) (hm : s.mode = .receive) (hp : s.slot.pending = true) :
    Reaches 3 (s.atPos ctx (.canSendMode :: rest)) ((s.withFlag false).atPos ctx rest) := by
  have h1 : Reaches 1 (s.atPos ctx (.canSendMode :: rest)) (s.atPos ctx (.canSendPending :: rest)) :=
    reaches_micro h (by simp [runMicro, runCanSendMode, hm])
  have h2 : Reaches 1 (s.atPos ctx (.canSendPending :: rest)) (s.atPos ctx (.ret false :: rest)) :=
    reaches_micro h (by simp [runMicro, runCanSendPending, hp])
  exact (h1.trans h2).trans (reaches_micro h (by cases ctx <;> rfl))

/-- `CanSend()` in Receive with an empty slot measures once (R110 line 3): the channel is busy. -/
theorem reaches_canSend_busy (h : s.running ctx) (hm : s.mode = .receive) (hp : s.slot.pending = false)
    (hc : channelClear s.rssiAnswer s.cfg.csmaLimit = false) :
    Reaches 4 (s.atPos ctx (.canSendMode :: rest)) ((s.drawRssi.withFlag false).atPos ctx rest) := by
  have h1 : Reaches 1 (s.atPos ctx (.canSendMode :: rest)) (s.atPos ctx (.canSendPending :: rest)) :=
    reaches_micro h (by simp [runMicro, runCanSendMode, hm])
  have h2 : Reaches 1 (s.atPos ctx (.canSendPending :: rest)) (s.atPos ctx (.canSendMeasure :: rest)) :=
    reaches_micro h (by simp [runMicro, runCanSendPending, hp])
  have h3 : Reaches 1 (s.atPos ctx (.canSendMeasure :: rest)) (s.drawRssi.atPos ctx (.ret false :: rest)) := by
    refine reaches_micro h ?_
    have : (s.atPos ctx rest).rssiAnswer = s.rssiAnswer := by cases ctx <;> rfl
    simp only [runMicro, runCanSendMeasure, this, State.atPos_cfg, hc]
    cases ctx <;> rfl
  exact ((h1.trans h2).trans h3).trans (reaches_micro (s := s.drawRssi) h (by cases ctx <;> rfl))

/-- `CanSend()` in Receive with an empty slot and a clear channel: Standby, and true (R110 lines 3 to 6). -/
theorem reaches_canSend_clear (h : s.running ctx) (hm : s.mode = .receive) (hp : s.slot.pending = false)
    (hc : channelClear s.rssiAnswer s.cfg.csmaLimit = true) :
    Reaches (4 + setModeCost s.cfg 0) (s.atPos ctx (.canSendMode :: rest))
      ((((s.drawRssi.io (modeEvents ctx s.cfg .standby (s.readAt 0)) 1).withFlag true).inMode .standby).atPos ctx
        rest) := by
  have h1 : Reaches 1 (s.atPos ctx (.canSendMode :: rest)) (s.atPos ctx (.canSendPending :: rest)) :=
    reaches_micro h (by simp [runMicro, runCanSendMode, hm])
  have h2 : Reaches 1 (s.atPos ctx (.canSendPending :: rest)) (s.atPos ctx (.canSendMeasure :: rest)) :=
    reaches_micro h (by simp [runMicro, runCanSendPending, hp])
  have h3 : Reaches 1 (s.atPos ctx (.canSendMeasure :: rest))
      (s.drawRssi.atPos ctx (.setMode 1 :: .ret true :: rest)) := by
    refine reaches_micro h ?_
    have : (s.atPos ctx rest).rssiAnswer = s.rssiAnswer := by cases ctx <;> rfl
    simp only [runMicro, runCanSendMeasure, this, State.atPos_cfg, hc]
    cases ctx <;> rfl
  have h4 := reaches_setMode (rest := .ret true :: rest) (s := s.drawRssi) h 1 .standby rfl 0 (by simp [hm])
  have e4 : s.drawRssi.setModeEvents ctx .receive .standby 0 0 = modeEvents ctx s.cfg .standby (s.readAt 0) := by
    simp [State.setModeEvents, State.wakeEvents, wakeReads]; rfl
  simp only [State.drawRssi_mode, State.drawRssi_cfg, hm, e4, setModeReads, wakeReads] at h4
  have h5 : Reaches 1 _ ((((s.drawRssi.io (modeEvents ctx s.cfg .standby (s.readAt 0)) 1).withFlag true).inMode
      .standby).atPos ctx rest) :=
    reaches_micro (m := .ret true) (rest := rest)
      (s := ((s.drawRssi.io (modeEvents ctx s.cfg .standby (s.readAt 0)) 1)).inMode .standby) h (by cases ctx <;> rfl)
  exact ((((h1.trans h2).trans h3).trans h4).trans h5).mono (by omega)

/-- The spin loop ends at a check that grants (R113). -/
theorem reaches_spinTest_granted (h : s.running ctx) (hf : s.flag = true) :
    Reaches 1 (s.atPos ctx (.spinTest :: rest)) (s.atPos ctx rest) :=
  reaches_micro h (by simp [runMicro, runSpinTest, hf])

/-- A failed check takes one `ReceiveDone()` and another check (R113). -/
theorem reaches_spinTest_again (h : s.running ctx) (hf : s.flag = false) :
    Reaches 1 (s.atPos ctx (.spinTest :: rest)) (s.atPos ctx (receiveDone ++ (.canSendMode :: .spinTest :: rest))) :=
  reaches_micro h (by simp [runMicro, runSpinTest, hf, spinUntilClear])

/-- `SpinUntilClear()` from Standby ends at once (R113). -/
theorem reaches_spin_standby (h : s.running ctx) (hm : s.mode = .standby) :
    Reaches 3 (s.atPos ctx (spinUntilClear ++ rest)) ((s.withFlag true).atPos ctx rest) := by
  have h1 := reaches_canSend_other (rest := .spinTest :: rest) h (by simp [hm])
  rw [hm] at h1
  exact h1.trans (reaches_spinTest_granted (s := s.withFlag true) h rfl)

/-- The transmit-complete wait that ends at its `n + 1`st poll (R119). -/
theorem reaches_waitLine (h : s.running ctx) (n : Nat) (hno : ∀ k < n, s.lineAt k = false) (hyes : s.lineAt n = true) :
    Reaches (n + 1) (s.atPos ctx (.waitLine :: rest)) ((s.polledLine (n + 1)).atPos ctx rest) := by
  have hd : ∀ u : State, u.drawLine = u.polledLine 1 := fun u => by simp [State.drawLine, State.polledLine]
  induction n generalizing s with
  | zero =>
    refine reaches_micro h ?_
    simp only [runMicro, runWaitLine, State.lineAnswer_eq, State.atPos_lineAt, hyes, hd, if_true]
    cases ctx <;> rfl
  | succ n ih =>
    have h0 := hno 0 (Nat.succ_pos n)
    have h1 : Reaches 1 (s.atPos ctx (.waitLine :: rest)) ((s.polledLine 1).atPos ctx (.waitLine :: rest)) := by
      refine reaches_micro h ?_
      simp only [runMicro, runWaitLine, State.lineAnswer_eq, State.atPos_lineAt, h0, hd]
      cases ctx <;> rfl
    have h2 := ih (s := s.polledLine 1) h (fun k hk => by simpa [Nat.add_comm] using hno (k + 1) (by omega))
      (by simpa [Nat.add_comm] using hyes)
    have := (h1.trans h2).mono (b := n + 1 + 1) (by omega)
    simpa [Nat.add_comm] using this

/-- The micro-steps a `SendFrame` needs at most, from any mode, with a poll that ends after `n`. -/
def sendFrameCost (c : Cfg) (w n : Nat) : Nat :=
  80 + n + (setModeCost c w + setModeCost c 0 + setModeCost c 0)

theorem encodeFrame_length_le (t a c : Byte) (p : List Byte) : (encodeFrame t a c p).length ≤ 65 := by
  simp only [encodeFrame, truncated, maxPayload, List.length_cons, List.length_take]
  omega

/-- `SendFrame` lines 2 to 11 (R116). -/
theorem reaches_sendFrame (h : s.running ctx) (a : Byte) (ha : s.localAddress = some a) (t : Byte) (p : List Byte)
    (ra sa : Bool) (w n : Nat) (hw : s.wakes s.mode 1 w) (hno : ∀ k < n, s.lineAt k = false)
    (hyes : s.lineAt n = true) :
    Reaches (sendFrameCost s.cfg w n) (s.atPos ctx (sendFrame s.cfg t p ra sa ++ rest))
      ((((s.io (s.setModeEvents ctx s.mode .standby 0 w ++ wr ctx s.cfg.regmap.aDiomap s.cfg.regmap.vDioTx
          :: (encodeFrame t a (controlByte ra sa) p).map (fun b => wr ctx s.cfg.regmap.aFifo b)
          ++ modeEvents ctx s.cfg .transmit (s.readAt (setModeReads s.mode .standby w))
          ++ modeEvents ctx s.cfg .standby (s.readAt (setModeReads s.mode .standby w + 1)))
        (setModeReads s.mode .standby w + 2)).polledLine (n + 1)).inMode .standby).atPos ctx rest) := by
  set r := setModeReads s.mode .standby w with hr
  set e1 := s.setModeEvents ctx s.mode .standby 0 w with he1
  set f := encodeFrame t a (controlByte ra sa) p with hf
  have h1 := reaches_setMode (rest := .regWrite s.cfg.regmap.aDiomap s.cfg.regmap.vDioTx ::
    .loadFrame t (controlByte ra sa) p :: rest) h 1 .standby rfl w hw
  set u := (s.io e1 r).inMode .standby with hu
  have h2 := reaches_regWrite (rest := .loadFrame t (controlByte ra sa) p :: rest) (s := u) h
    s.cfg.regmap.aDiomap s.cfg.regmap.vDioTx
  set v := u.io [wr ctx s.cfg.regmap.aDiomap s.cfg.regmap.vDioTx] 0 with hv
  have h3 : Reaches 1 (v.atPos ctx (.loadFrame t (controlByte ra sa) p :: rest))
      (v.atPos ctx (critical (fifoFill s.cfg f) ++ (.setMode 4 :: .waitLine :: .setMode 1 :: rest))) := by
    refine reaches_micro h ?_
    have hva : v.localAddress = some a := by simpa [hv, hu] using ha
    have hvc : v.cfg = s.cfg := rfl
    simp [runMicro, runLoadFrame, hva, hvc, sendFrameBody, ← hf]
  have h4 := reaches_critical (s := v) (rest := .setMode 4 :: .waitLine :: .setMode 1 :: rest)
    (body := fifoFill s.cfg f) (b := f.length) (e := f.map (fun b => wr ctx s.cfg.regmap.aFifo b)) (k := 0) h
    (fun q => by
      have := reaches_writes (s := v.enterCritical) (rest := q) h (f.map (fun b => (s.cfg.regmap.aFifo, b)))
      simpa [writes_fifo, Function.comp_def] using this)
  set x := v.io (f.map (fun b => wr ctx s.cfg.regmap.aFifo b)) 0 with hx
  have h5 := reaches_setMode (rest := .waitLine :: .setMode 1 :: rest) (s := x) h 4 .transmit rfl 0
    (by intro hh; simp [hx, hv, hu] at hh)
  have h6 := reaches_waitLine (rest := .setMode 1 :: rest)
    (s := (x.io (x.setModeEvents ctx x.mode .transmit 0 0) (setModeReads x.mode .transmit 0)).inMode .transmit) h n
    (by simpa [hx, hv, hu] using hno) (by simpa [hx, hv, hu] using hyes)
  set y := ((x.io (x.setModeEvents ctx x.mode .transmit 0 0) (setModeReads x.mode .transmit 0)).inMode
    .transmit).polledLine (n + 1) with hy
  have h7 := reaches_setMode (rest := rest) (s := y) h 1 .standby rfl 0 (by intro hh; simp [hy] at hh)
  have := (((((h1.trans h2).trans h3).trans h4).trans h5).trans h6).trans h7
  have hle := encodeFrame_length_le t a (controlByte ra sa) p
  have hc1 : x.cfg = s.cfg := rfl
  have hc2 : y.cfg = s.cfg := rfl
  refine Reaches.mono ?_ (a := setModeCost s.cfg w + 1 + 1 + (f.length + 2) + setModeCost s.cfg 0 + (n + 1)
    + setModeCost s.cfg 0) (by unfold sendFrameCost; rw [← hf] at hle; omega)
  simpa [sendFrame, hy, hx, hv, hu, setModeReads, State.setModeEvents, State.wakeEvents, wakeReads] using this

/-- The restart write of `Send` (R115 lines 1 to 4). -/
theorem reaches_restartWrite (h : s.running ctx) :
    Reaches 4 (s.atPos ctx (restartWrite s.cfg ++ rest))
      ((s.io (restartEvents ctx s.cfg (s.readAt 0)) 1).atPos ctx rest) := by
  have g := reaches_critical_modify (rest := rest) h s.cfg.regmap.aPktcfg 0xFF s.cfg.regmap.bRestartRx
  rw [show ∀ v : Byte, v &&& 0xFF = v from fun v => BitVec.and_allOnes] at g
  exact g

end Sys2Proof.Machine
end

