-- ==== Sys2Proof/Laws/Edge.lean ====
section
/-! SUPPORT. What ON_READY_EDGE does on each of its paths where no further interrupt cuts in (R100, R101, R106). -/

namespace Sys2Proof.Machine

variable {ctx : Context} {s : State} {rest : List Micro}

/-- The mode guard holds it back (R101). -/
theorem reaches_edgeGuard_mode (h : s.running ctx) (hm : s.mode ≠ .receive) :
    Reaches 1 (s.atPos ctx (.edgeGuard :: rest)) (s.atPos ctx rest) :=
  reaches_micro h (by simp [runMicro, runEdgeGuard, hm])

/-- The status guard holds it back after one read (R101). -/
theorem reaches_edgeGuard_status (h : s.running ctx) (hm : s.mode = .receive)
    (hp : s.readAt 0 &&& s.cfg.regmap.bPayloadReady = 0) :
    Reaches 2 (s.atPos ctx (.edgeGuard :: rest)) ((s.io [rd ctx s.cfg.regmap.aIrq2 (s.readAt 0)] 1).atPos ctx rest) := by
  have h1 : Reaches 1 (s.atPos ctx (.edgeGuard :: rest)) (s.atPos ctx (.edgeStatus :: rest)) :=
    reaches_micro h (by simp [runMicro, runEdgeGuard, hm])
  have h2 : Reaches 1 (s.atPos ctx (.edgeStatus :: rest)) _ :=
    reaches_micro (t := (s.io [rd ctx s.cfg.regmap.aIrq2 (s.readAt 0)] 1).atPos ctx rest) h
      (by simp [runMicro, runEdgeStatus, State.regRead_eq, State.readAnswer_eq, statusSet, hp])
  exact h1.trans h2

/-- The transactions up to the length byte: status, W(Standby) (R100 lines 2 and 3). -/
def State.drainEvents (s : State) (ctx : Context) : List BusEvent :=
  rd ctx s.cfg.regmap.aIrq2 (s.readAt 0) :: modeEvents ctx s.cfg .standby (s.readAt 1)

/-- Both guards pass: the block is in Standby and about to read the length (R100 lines 1 to 3). -/
theorem reaches_edge_drain (h : s.running ctx) (hm : s.mode = .receive)
    (hp : s.readAt 0 &&& s.cfg.regmap.bPayloadReady ≠ 0) :
    Reaches (2 + setModeCost s.cfg 0) (s.atPos ctx (.edgeGuard :: rest))
      (((s.io (s.drainEvents ctx) 2).inMode .standby).atPos ctx (.popLength :: rest)) := by
  have h1 : Reaches 1 (s.atPos ctx (.edgeGuard :: rest)) (s.atPos ctx (.edgeStatus :: rest)) :=
    reaches_micro h (by simp [runMicro, runEdgeGuard, hm])
  set u := s.io [rd ctx s.cfg.regmap.aIrq2 (s.readAt 0)] 1 with hu
  have h2 : Reaches 1 (s.atPos ctx (.edgeStatus :: rest)) (u.atPos ctx (.setMode 1 :: .popLength :: rest)) := by
    refine reaches_micro h ?_
    simp [runMicro, runEdgeStatus, State.regRead_eq, State.readAnswer_eq, statusSet, hu]
    intro hb'; exact absurd hb' hp
  have h3 := reaches_setMode (rest := .popLength :: rest) (s := u) h 1 .standby rfl 0
    (by intro hh; simp [hu, hm] at hh)
  have := (h1.trans h2).trans h3
  simpa [hu, hm, setModeReads, State.setModeEvents, State.wakeEvents, wakeReads, State.drainEvents] using this

/-- A length above 64 faults, the slot untouched (R106). -/
theorem reaches_popLength_oversize (h : s.running ctx) (hl : 64 < (s.readAt 0).toNat) :
    Reaches 2 (s.atPos ctx (.popLength :: rest))
      ({ s.io [rd ctx s.cfg.regmap.aFifo (s.readAt 0)] 1 with faulted := true }.atPos ctx rest) := by
  have hm : lengthMalformed (s.readAt 0) = false :=
    decide_eq_false (by simp only [headerLen]; omega)
  have ho : lengthOversize (s.readAt 0) = true :=
    decide_eq_true (by simp only [maxLengthByte, headerLen, maxPayload]; omega)
  have h1 : Reaches 1 (s.atPos ctx (.popLength :: rest))
      ((s.io [rd ctx s.cfg.regmap.aFifo (s.readAt 0)] 1).atPos ctx (.raiseOversize :: rest)) :=
    reaches_micro h (by simp [runMicro, runPopLength, State.regRead_eq, State.readAnswer_eq, hm, ho])
  exact h1.trans (reaches_micro (s := s.io [rd ctx s.cfg.regmap.aFifo (s.readAt 0)] 1) h (by cases ctx <;> rfl))

/-- A discard: the re-arm in the interrupt context (R100 lines 5 and 8, D11). -/
theorem reaches_discard (h : s.running ctx) (hm : s.mode = .standby) :
    Reaches (1 + rearmCost s.cfg 0) (s.atPos ctx (discard s.cfg ++ rest))
      ((((s.io (s.rearmEvents ctx .standby 0 0) (s.rearmReads .standby 0 0)).withSlot s.slot.cleared false).inMode
        .receive).atPos ctx rest) := by
  have h1 : Reaches 1 (s.atPos ctx (discard s.cfg ++ rest))
      ((s.withSlot (s.slot.clearField .pendingLength) false).atPos ctx (receiveBegin s.cfg ++ rest)) :=
    reaches_micro h (by
      have : (s.window && !SlotField.pendingLength.empties) = false := by simp [SlotField.empties]
      simp only [runMicro, runClearField, State.atPos_slot, State.atPos_window, this]
      cases ctx <;> rfl)
  have h2 := reaches_receiveBegin (rest := rest) (s := s.withSlot (s.slot.clearField .pendingLength) false) h 0
    (by intro hh; simp [hm] at hh)
  have hc : (s.slot.clearField .pendingLength).cleared = s.slot.cleared := rfl
  have he : ∀ sl w, (s.withSlot sl w).rearmEvents ctx .standby 0 0 = s.rearmEvents ctx .standby 0 0 :=
    fun _ _ => rfl
  have hr : ∀ sl w, (s.withSlot sl w).rearmReads .standby 0 0 = s.rearmReads .standby 0 0 := fun _ _ => rfl
  simpa [hm, hc, he, hr] using h1.trans h2

/-- A length below 3 is dropped after one FIFO read (R141). -/
theorem reaches_popLength_malformed (h : s.running ctx) (hm : s.mode = .standby) (hl : (s.readAt 0).toNat < 3) :
    Reaches (2 + rearmCost s.cfg 0) (s.atPos ctx (.popLength :: rest))
      ((((s.io (rd ctx s.cfg.regmap.aFifo (s.readAt 0) :: s.rearmEvents ctx .standby 1 0)
        (1 + s.rearmReads .standby 1 0)).withSlot s.slot.cleared false).inMode .receive).atPos ctx rest) := by
  have hmal : lengthMalformed (s.readAt 0) = true :=
    decide_eq_true (by simp only [headerLen]; omega)
  set u := s.io [rd ctx s.cfg.regmap.aFifo (s.readAt 0)] 1 with hu
  have h1 : Reaches 1 (s.atPos ctx (.popLength :: rest)) (u.atPos ctx (discard s.cfg ++ rest)) :=
    reaches_micro h (by simp [runMicro, runPopLength, State.regRead_eq, State.readAnswer_eq, hmal, hu])
  have h2 := reaches_discard (rest := rest) (s := u) h hm
  have := (h1.trans h2).mono (b := 2 + rearmCost s.cfg 0) (by simp only [hu, State.io_cfg]; omega)
  simpa [hu] using this

/-- The drain up to the filter, for a length 3..64: two FIFO reads (R100 lines 4 to 8). -/
theorem reaches_drain_filter (h : s.running ctx) (h3 : 3 ≤ (s.readAt 0).toNat) (h64 : (s.readAt 0).toNat ≤ 64) :
    Reaches 2 (s.atPos ctx (.popLength :: rest))
      ((s.io [rd ctx s.cfg.regmap.aFifo (s.readAt 0), rd ctx s.cfg.regmap.aFifo (s.readAt 1)] 2).atPos ctx
        (.applyFilter (s.readAt 0) (s.readAt 1) :: rest)) := by
  have hm : lengthMalformed (s.readAt 0) = false :=
    decide_eq_false (by simp only [headerLen]; omega)
  have ho : lengthOversize (s.readAt 0) = false :=
    decide_eq_false (by simp only [maxLengthByte, headerLen, maxPayload]; omega)
  set u := s.io [rd ctx s.cfg.regmap.aFifo (s.readAt 0)] 1 with hu
  have h1 : Reaches 1 (s.atPos ctx (.popLength :: rest)) (u.atPos ctx (.popTarget (s.readAt 0) :: rest)) :=
    reaches_micro h (by simp [runMicro, runPopLength, State.regRead_eq, State.readAnswer_eq, hm, ho, hu])
  have h2 : Reaches 1 (u.atPos ctx (.popTarget (s.readAt 0) :: rest))
      ((u.io [rd ctx s.cfg.regmap.aFifo (s.readAt 1)] 1).atPos ctx
        (.applyFilter (s.readAt 0) (s.readAt 1) :: rest)) :=
    reaches_micro (s := u) h (by simp [runMicro, runPopTarget, State.regRead_eq, State.readAnswer_eq, hu])
  simpa [hu] using h1.trans h2

/-- The filter rejects: the frame is dropped without reading further (R142, C1). -/
theorem reaches_applyFilter_reject (h : s.running ctx) (hm : s.mode = .standby) (l t : Byte)
    (hf : filterAccepts s.promiscuous s.localAddress t = some false) :
    Reaches (2 + rearmCost s.cfg 0) (s.atPos ctx (.applyFilter l t :: rest))
      ((((s.io (s.rearmEvents ctx .standby 0 0) (s.rearmReads .standby 0 0)).withSlot s.slot.cleared false).inMode
        .receive).atPos ctx rest) := by
  have h1 : Reaches 1 (s.atPos ctx (.applyFilter l t :: rest)) (s.atPos ctx (discard s.cfg ++ rest)) :=
    reaches_micro h (by simp [runMicro, runApplyFilter, hf])
  exact (h1.trans (reaches_discard h hm)).mono (by omega)

/-- The payload reads, one per index, ascending (R100 line 11). -/
theorem reaches_popPayloads (h : s.running ctx) (i n : Nat) :
    Reaches n (s.atPos ctx ((List.range' i n).map Micro.popPayload ++ rest))
      (({ s.io ((s.fifoBytes 0 n).map (fun b => rd ctx s.cfg.regmap.aFifo b)) n with
          slot := { s.slot with
            payload := s.slot.payload.fillFrom i (s.fifoBytes 0 n) } }
        ).atPos ctx rest) := by
  induction n generalizing s i with
  | zero =>
    have : ({ s.io [] 0 with slot := { s.slot with payload := s.slot.payload } } : State) = s := by
      rw [State.io_zero]
    simp only [State.fifoBytes, List.range_zero, List.map_nil, Memory.fillFrom, this,
      List.range'_zero, List.nil_append]
    exact Reaches.refl 0 _
  | succ n ih =>
    set u : State := { s.io [rd ctx s.cfg.regmap.aFifo (s.readAt 0)] 1 with
      slot := { s.slot with payload := Memory.write s.slot.payload i (s.readAt 0) } } with hu
    have h1 : Reaches 1 (s.atPos ctx (.popPayload i :: ((List.range' (i + 1) n).map Micro.popPayload ++ rest)))
        (u.atPos ctx ((List.range' (i + 1) n).map Micro.popPayload ++ rest)) := by
      refine reaches_micro h ?_
      simp only [runMicro, runPopPayload, State.regRead_eq, State.readAnswer_eq, State.atPos_readAt, State.atPos_cfg,
        State.atPos_slot, hu]
      cases ctx <;> rfl
    have h2 := ih (s := u) (i := i + 1) h
    have hb : u.fifoBytes 0 n = s.fifoBytes 1 n := by
      have : ∀ k, u.readAt (0 + k) = s.readAt (1 + k) := fun k => by
        have : u.readAt (0 + k) = (s.io [rd ctx s.cfg.regmap.aFifo (s.readAt 0)] 1).readAt (0 + k) := rfl
        rw [this, State.io_readAt, Nat.zero_add]
      simp only [State.fifoBytes, this]
    have hs : s.fifoBytes 0 (n + 1) = s.readAt 0 :: s.fifoBytes 1 n := by
      simp [State.fifoBytes, List.range_succ_eq_map, Function.comp_def, Nat.add_comm 1]
    have h3 := (h1.trans h2).mono (b := n + 1) (by omega)
    rw [hs]
    rw [hb] at h3
    rw [List.range'_succ, List.map_cons, List.cons_append]
    convert h3 using 2
    simp only [hu, State.io, List.map_cons, Memory.fillFrom, Source.drop_drop, List.append_assoc,
      List.cons_append, List.nil_append, Nat.add_comm n 1]

/-- The transactions of an accepted frame from the sender byte on (R100 lines 9 to 13). -/
def State.acceptEvents (s : State) (ctx : Context) (n : Nat) : List BusEvent :=
  rd ctx s.cfg.regmap.aFifo (s.readAt 0) :: rd ctx s.cfg.regmap.aFifo (s.readAt 1)
    :: (s.fifoBytes 2 n).map (fun b => rd ctx s.cfg.regmap.aFifo b)
    ++ modeEvents ctx s.cfg .receive (s.readAt (2 + n))

/-- The slot an accepted frame leaves (R100 lines 11, 12 and 14). -/
def State.acceptedSlot (s : State) (l t : Byte) : Slot where
  pendingLength := l
  payloadLength := l - 3
  targetAddress := t
  senderAddress := s.readAt 0
  ackReply := (s.readAt 1).getLsbD 7
  ackRequest := (s.readAt 1).getLsbD 6
  payload := s.slot.payload.fill (s.fifoBytes 2 (l - 3).toNat)
  rssi := s.rssiAnswer

/-- The frame is stored, reception re-entered, the signal strength sampled (R100 lines 12 to 14). -/
theorem reaches_storeFrame (h : s.running ctx) (hm : s.mode = .standby) (l t sn c : Byte) :
    Reaches (2 + setModeCost s.cfg 0) (s.atPos ctx (.storeFrame l t sn c :: .setMode 3 :: .sampleRssi :: rest))
      ((((s.drawRssi.io (modeEvents ctx s.cfg .receive (s.readAt 0)) 1).withSlot
        { s.slot.store l t sn c with rssi := s.rssiAnswer } false).inMode .receive).atPos ctx rest) := by
  set x := s.withSlot (s.slot.store l t sn c) false with hx
  have h5 : Reaches 1 (s.atPos ctx (.storeFrame l t sn c :: .setMode 3 :: .sampleRssi :: rest))
      (x.atPos ctx (.setMode 3 :: .sampleRssi :: rest)) := reaches_micro h (by cases ctx <;> rfl)
  have h6 := reaches_setMode (rest := .sampleRssi :: rest) (s := x) h 3 .receive rfl 0
    (by intro hh; simp [hx, hm] at hh)
  have h6' : Reaches (setModeCost s.cfg 0) (x.atPos ctx (.setMode 3 :: .sampleRssi :: rest))
      (((x.io (modeEvents ctx s.cfg .receive (s.readAt 0)) 1).inMode .receive).atPos ctx (.sampleRssi :: rest)) := by
    simpa [hx, hm, State.setModeEvents, State.wakeEvents, setModeReads, wakeReads] using h6
  have h7 : ∀ u : State, u.running ctx → Reaches 1 (u.atPos ctx (.sampleRssi :: rest))
      ((u.drawRssi.withSlot { u.slot with rssi := u.rssiAnswer } u.window).atPos ctx rest) := fun u hu =>
    reaches_micro hu (by cases ctx <;> rfl)
  exact ((h5.trans h6').trans (h7 ((x.io (modeEvents ctx s.cfg .receive (s.readAt 0)) 1).inMode .receive) h)).mono
    (by omega)

/-- The filter accepts: the rest of the frame is stored, and reception goes on (R100 lines 9 to 14). -/
theorem reaches_applyFilter_accept (h : s.running ctx) (hm : s.mode = .standby) (l t : Byte)
    (hf : filterAccepts s.promiscuous s.localAddress t = some true) :
    Reaches (5 + (l - 3).toNat + setModeCost s.cfg 0) (s.atPos ctx (.applyFilter l t :: rest))
      ((((s.drawRssi.io (s.acceptEvents ctx (l - 3).toNat) (3 + (l - 3).toNat)).withSlot (s.acceptedSlot l t)
        false).inMode .receive).atPos ctx rest) := by
  generalize hn : (l - 3).toNat = n
  have hp : (payloadLengthOf l).toNat = n := hn
  have h1 : Reaches 1 (s.atPos ctx (.applyFilter l t :: rest)) (s.atPos ctx (.popSender l t :: rest)) :=
    reaches_micro h (by simp [runMicro, runApplyFilter, hf])
  have h2 : Reaches 1 (s.atPos ctx (.popSender l t :: rest))
      ((s.io [rd ctx s.cfg.regmap.aFifo (s.readAt 0)] 1).atPos ctx (.popControl l t (s.readAt 0) :: rest)) :=
    reaches_micro h (by simp [runMicro, runPopSender, State.regRead_eq, State.readAnswer_eq])
  have h3 : Reaches 1
      ((s.io [rd ctx s.cfg.regmap.aFifo (s.readAt 0)] 1).atPos ctx (.popControl l t (s.readAt 0) :: rest))
      ((s.io [rd ctx s.cfg.regmap.aFifo (s.readAt 0), rd ctx s.cfg.regmap.aFifo (s.readAt 1)] 2).atPos ctx
        ((List.range' 0 n).map Micro.popPayload
          ++ (.storeFrame l t (s.readAt 0) (s.readAt 1) :: .setMode 3 :: .sampleRssi :: rest))) :=
    reaches_micro (s := s.io [rd ctx s.cfg.regmap.aFifo (s.readAt 0)] 1) h
      (by simp [runMicro, runPopControl, State.regRead_eq, State.readAnswer_eq, hp, List.range_eq_range'])
  generalize hv : s.io [rd ctx s.cfg.regmap.aFifo (s.readAt 0), rd ctx s.cfg.regmap.aFifo (s.readAt 1)] 2 = v at h3
  have hvr : v.running ctx := by subst hv; exact h
  have hvc : v.cfg = s.cfg := by subst hv; rfl
  have hvm : v.mode = .standby := by subst hv; exact hm
  have hvs : v.slot = s.slot := by subst hv; rfl
  have hvb : v.fifoBytes 0 n = s.fifoBytes 2 n := by
    subst hv
    simp [State.fifoBytes]
  have h4 := reaches_popPayloads (rest := .storeFrame l t (s.readAt 0) (s.readAt 1) :: .setMode 3 :: .sampleRssi :: rest)
    hvr 0 n
  rw [hvb, hvc, hvs] at h4
  generalize hw : ({ v.io ((s.fifoBytes 2 n).map (fun b => rd ctx s.cfg.regmap.aFifo b)) n with
    slot := { s.slot with payload := s.slot.payload.fillFrom 0 (s.fifoBytes 2 n) } } : State) = w at h4
  have hwr : w.running ctx := by subst hw; exact hvr
  have hwc : w.cfg = s.cfg := by subst hw; exact hvc
  have hwm : w.mode = .standby := by subst hw; exact hvm
  have hw0 : w.readAt 0 = s.readAt (2 + n) := by
    have : w.readAt 0 = (v.io ((s.fifoBytes 2 n).map (fun b => rd ctx s.cfg.regmap.aFifo b)) n).readAt 0 := by
      subst hw; rfl
    rw [this, State.io_readAt, ← hv, State.io_readAt, Nat.add_zero]
  have h5 := reaches_storeFrame (rest := rest) hwr hwm l t (s.readAt 0) (s.readAt 1)
  rw [hwc, hw0] at h5
  have h6 := ((((h1.trans h2).trans h3).trans h4).trans h5).mono (b := 5 + n + setModeCost s.cfg 0) (by omega)
  have he : w.drawRssi.io (modeEvents ctx s.cfg .receive (s.readAt (2 + n))) 1 =
      (s.drawRssi.io (s.acceptEvents ctx n) (3 + n)).withSlot w.slot s.window := by
    subst hw hv
    simp [State.io, State.drawRssi, State.withSlot, State.acceptEvents]
    rw [show 2 + n + 1 = 3 + n by omega]
  have hsl : ({ w.slot.store l t (s.readAt 0) (s.readAt 1) with rssi := w.rssiAnswer } : Slot) = s.acceptedSlot l t := by
    subst hw hv
    simp only [Slot.store, State.acceptedSlot, Memory.fill, hn, payloadLengthOf, controlAckReply, controlAckRequest]
    rfl
  rw [he, hsl, State.withSlot_withSlot] at h6
  exact h6

end Sys2Proof.Machine
end

