-- ==== Sys2Proof/Laws/Commands.lean ====
section
/-! SUPPORT. From a program's run to the command's answer: admission (R70, R76), the end of a command, and the run of the
interrupt context for a ready-line event (R145, R148). -/

namespace Sys2Proof.Machine

variable {s : State}

/-- A ready block admits a command whose operands are in range. -/
theorem command_ready (h : s.ready) (program : List Micro) : command none program s = launch program s := by
  obtain ⟨⟨hf, hfg, hh, _⟩, hi⟩ := h
  simp [command, hf, hi, State.idle, hfg, hh]

/-- A ready block refuses a command with an operand out of its range (R76). -/
theorem command_refused (h : s.ready) (r : Refusal) (program : List Micro) :
    command (some r) program s = .refused r := by
  obtain ⟨⟨hf, hfg, hh, _⟩, hi⟩ := h
  simp [command, hf, hi, State.idle, hfg, hh]

/-- The end of a command: the host gets the result (R70). -/
theorem reaches_finish {ctx : Context} (h : s.running ctx) (valued : Bool) (rest : List Micro) :
    Reaches 1 (s.atPos ctx (.finish valued :: rest))
      ({ s with result := some (if valued then .bool s.flag else .unit) }.atPos ctx rest) :=
  reaches_micro h (by cases ctx <;> rfl)

/-- A command whose program runs to its end within the budget answers with the state it reaches. -/
theorem launch_reaches {program : List Micro} {b : Nat} {t : State}
    (h : Reaches b ({ s with result := none }.atPos .fg program) (t.atPos .fg [])) (hh : t.handler = [])
    (hb : b ≤ stepBudget s.cfg) : launch program s = .next (t.atPos .fg []) :=
  h.drive_eq (by simp [State.halted, State.idle, State.atPos, hh]) hb

/-- A block that accepts requests runs its foreground once a command is launched. -/
theorem running_launched (h : s.accepting) : ({ s with result := none } : State).running .fg :=
  ⟨h.2.2.2, h.1, fun _ => h.2.2.1⟩

/-- The ready-line event of a block that accepts requests with delivery on: the interrupt context runs whole, and the
enable is restored (R145, R148). -/
theorem readyEdge_reaches {b : Nat} {t : State} (h : s.accepting) (he : s.irqEnabled = true)
    (hr : ∀ u : State, u = { s with irqEnabled := false } →
      Reaches b (u.atPos .irq (.edgeGuard :: [.irqReturn])) (t.atPos .irq [.irqReturn]))
    (ht : t.running .irq) (hfg : t.foreground = []) (hb : b + 1 ≤ stepBudget s.cfg) :
    readyEdge s = .next ({ t with irqEnabled := true }.atPos .irq []) := by
  have h1 := hr _ rfl
  have h2 : Reaches 1 (t.atPos .irq [.irqReturn]) ({ t with irqEnabled := true }.atPos .irq []) :=
    reaches_micro ht rfl
  have h3 : s.edge.enterInterrupt = ({ s with irqEnabled := false } : State).atPos .irq (.edgeGuard :: [.irqReturn]) := by
    simp [State.edge, State.enterInterrupt, State.atPos, handlerProgram, h.2.2.1, h.2.2.2.2]
  have h4 : readyEdge s = drive (stepBudget s.cfg) s.edge.enterInterrupt := by
    simp [readyEdge, h.1, he]
  rw [h4, h3]
  exact (h1.trans h2).drive_eq (by simp [State.halted, State.idle, State.atPos, hfg]) hb

/-- A ready-line event of a block that masks delivery is latched (R23). -/
theorem readyEdge_masked (hf : s.faulted = false) (he : s.irqEnabled = false) : readyEdge s = .next s.edge := by
  simp [readyEdge, hf, he]

/-- The budget covers an operation whose cost is linear in the tuning lists. -/
theorem cost_le_budget (c : Cfg) (a b : Nat) (ha : a ≤ 1048576) (hb : b ≤ 1048576) :
    a + b * (c.paTuneOn.length + c.paTuneOff.length) ≤ stepBudget c := by
  unfold stepBudget
  generalize c.paTuneOn.length + c.paTuneOff.length = t
  nlinarith

/-- The budget covers an operation of bounded cost. -/
theorem small_le_budget (c : Cfg) (a : Nat) (ha : a ≤ 1048576) : a ≤ stepBudget c := by
  have := cost_le_budget c a 0 ha (Nat.zero_le _)
  omega

/-- A command whose program comes to its `finish` within the budget hands its result over. -/
theorem launch_finishes {program : List Micro} {b : Nat} {t : State} (valued : Bool)
    (hr : Reaches b (({ s with result := none } : State).atPos .fg program)
      (t.atPos .fg [Micro.finish valued]))
    (ht : t.running .fg) (hb : b + 1 ≤ stepBudget s.cfg) :
    launch program s =
      .next { t with result := some (if valued then .bool t.flag else .unit), foreground := [] } :=
  launch_reaches (hr.trans (reaches_finish ht valued [])) (ht.2.2 rfl) hb

/-- A mode-ready wait that ends may be taken to end within the poll bound: where no wait runs, its length is nothing. -/
theorem State.wakes_bounded {o : RadioMode} {p n : Nat} (hw : s.wakes o p n) :
    ∃ k ≤ pollBound, s.wakes o p k ∧ wakeReads o k = wakeReads o n := by
  by_cases ho : o = .sleep
  · exact ⟨n, (hw ho).1, hw, rfl⟩
  · exact ⟨0, Nat.zero_le _, fun h => absurd h ho, by simp [wakeReads, ho]⟩

/-- The transactions of a `SetMode` depend on the wait's length only through the number of its reads. -/
theorem State.setModeEvents_congr {o : RadioMode} {k n : Nat} (h : wakeReads o k = wakeReads o n) (ctx : Context)
    (t : RadioMode) (p : Nat) : s.setModeEvents ctx o t p k = s.setModeEvents ctx o t p n := by
  simp [State.setModeEvents, State.wakeEvents, h]

/-- The answers of a `SetMode` depend on the wait's length only through the number of its reads. -/
theorem setModeReads_congr {o : RadioMode} {k n : Nat} (h : wakeReads o k = wakeReads o n) (t : RadioMode) :
    setModeReads o t k = setModeReads o t n := by
  simp [setModeReads, h]

end Sys2Proof.Machine
end

