-- ==== Sys2Proof/Laws/Encoding.lean ====
section
/-! SUPPORT. The bits of an encoded frame header (R60), and the fields the decoder reads back from them. -/

namespace Sys2Proof

/-- Every bit of the header word of R60. -/
theorem encodeHeader_getLsbD (l t s : Byte) (a b : Bool) (i : Nat) :
    (encodeHeader l t s a b).getLsbD i =
      if i < 6 then false
      else if i < 7 then b
      else if i < 8 then a
      else if i < 16 then s.getLsbD (i - 8)
      else if i < 24 then t.getLsbD (i - 16)
      else l.getLsbD (i - 24) := by
  simp only [encodeHeader, BitVec.getLsbD_append, BitVec.getLsbD_ofBool, BitVec.getLsbD_zero]
  split_ifs <;> first
    | rfl
    | omega
    | (rw [decide_eq_true (by omega), Bool.true_and])

theorem decodeHeader_encodeHeader (l t s : Byte) (a b : Bool) :
    decodeHeader (encodeHeader l t s a b) = .frameHeader l t s a b := by
  have h1 : (encodeHeader l t s a b).extractLsb' 24 8 = l := by
    refine BitVec.eq_of_getLsbD_eq fun i hi => ?_
    rw [BitVec.getLsbD_extractLsb', encodeHeader_getLsbD]
    simp [hi, show ¬24 + i < 6 by omega, show ¬24 + i < 7 by omega, show ¬24 + i < 8 by omega,
      show ¬24 + i < 16 by omega, show ¬24 + i < 24 by omega]
  have h2 : (encodeHeader l t s a b).extractLsb' 16 8 = t := by
    refine BitVec.eq_of_getLsbD_eq fun i hi => ?_
    rw [BitVec.getLsbD_extractLsb', encodeHeader_getLsbD]
    simp [hi, show ¬16 + i < 6 by omega, show ¬16 + i < 7 by omega, show ¬16 + i < 8 by omega,
      show 16 + i < 24 by omega]
  have h3 : (encodeHeader l t s a b).extractLsb' 8 8 = s := by
    refine BitVec.eq_of_getLsbD_eq fun i hi => ?_
    rw [BitVec.getLsbD_extractLsb', encodeHeader_getLsbD]
    simp [hi, show ¬8 + i < 6 by omega, show ¬8 + i < 7 by omega, show 8 + i < 16 by omega]
  have h4 : (encodeHeader l t s a b).getLsbD 7 = a := by rw [encodeHeader_getLsbD]; rfl
  have h5 : (encodeHeader l t s a b).getLsbD 6 = b := by rw [encodeHeader_getLsbD]; rfl
  rw [decodeHeader, h1, h2, h3, h4, h5]

end Sys2Proof
end

