-- ==== Sys2Proof/Laws/Memory.lean ====
section
/-! SUPPORT. The laws of the payload buffer (R24 (a)): a read after a write, other indices left alone, and the canonical
form kept; what a write does to the indices that hold a byte (R18). -/

namespace Sys2Proof.Machine

/-- A byte written is the byte read back. -/
@[simp] theorem Memory.read_write_same (m : Memory) (i : Nat) (b : Byte) :
    Memory.read (Memory.write m i b) i = some b := by
  induction m with
  | nil => simp [Memory.write, Memory.read]
  | cons c rest ih =>
    obtain ⟨c, v⟩ := c
    unfold Memory.write
    split
    · simp [Memory.read]
    · split
      · simp [Memory.read]
      · rename_i h1 h2
        simp [Memory.read, ih, Ne.symm h2]

/-- A write leaves every other index alone. -/
theorem Memory.read_write_other (m : Memory) (i j : Nat) (b : Byte) (h : j ≠ i) :
    Memory.read (Memory.write m i b) j = Memory.read m j := by
  induction m with
  | nil => simp [Memory.write, Memory.read, Ne.symm h]
  | cons c rest ih =>
    obtain ⟨c, v⟩ := c
    unfold Memory.write
    split
    · simp [Memory.read, Ne.symm h]
    · split
      · rename_i h1 h2
        subst h2
        simp [Memory.read, Ne.symm h]
      · simp [Memory.read, ih]

/-- A write at an index 0..60 that is at least the lower bound keeps the indices rising. -/
theorem Memory.wfFrom_write (m : Memory) (low i : Nat) (b : Byte) (hm : Memory.wfFrom low m = true) (hl : low ≤ i)
    (hi : i < maxPayload) : Memory.wfFrom low (Memory.write m i b) = true := by
  induction m generalizing low with
  | nil => simp [Memory.write, Memory.wfFrom, hl, hi]
  | cons c rest ih =>
    obtain ⟨c, v⟩ := c
    simp only [Memory.wfFrom, Bool.and_eq_true, decide_eq_true_eq] at hm
    obtain ⟨⟨h1, h2⟩, h3⟩ := hm
    unfold Memory.write
    split
    · simp [Memory.wfFrom, hl, hi, h2, h3]; omega
    · split
      · rename_i hne heq
        subst heq
        simp [Memory.wfFrom, h1, h2, h3]
      · simp [Memory.wfFrom, h1, h2, ih (c + 1) h3 (by omega)]

/-- Every write of the payload buffer keeps its canonical form. -/
theorem Memory.wf_write (m : Memory) (i : Nat) (b : Byte) (hm : Memory.wf m = true) (hi : i < maxPayload) :
    Memory.wf (Memory.write m i b) = true :=
  Memory.wfFrom_write m 0 i b hm (Nat.zero_le i) hi

/-- A write keeps every index that holds a byte. -/
theorem Memory.isSome_write (m : Memory) (i j : Nat) (b : Byte) (h : (Memory.read m j).isSome = true) :
    (Memory.read (Memory.write m i b) j).isSome = true := by
  by_cases hj : j = i
  · subst hj; simp
  · rwa [Memory.read_write_other m i j b hj]

theorem Memory.holds_iff (m : Memory) (n : Nat) : m.holds n = true ↔ ∀ i < n, (Memory.read m i).isSome = true := by
  simp [Memory.holds]

/-- A write keeps the bytes held. -/
theorem Memory.holds_write (m : Memory) (i n : Nat) (b : Byte) (h : m.holds n = true) :
    Memory.holds (Memory.write m i b) n = true := by
  rw [Memory.holds_iff] at h ⊢
  exact fun j hj => Memory.isSome_write m i j b (h j hj)

/-- The payload buffer after reset has the canonical form. -/
theorem Memory.wf_reset : Memory.wf Slot.reset.payload = true := rfl

end Sys2Proof.Machine
end

