-- ==== Sys2Proof/Laws/Micro.lean ====
section
/-! SUPPORT. Everything one micro-step can do, said once: what follows in its context's position (`Follows`), and what
it changes of the rest of the state (`Changes`). The invariants and the rules of the whole machine go through
`runMicro_step`, never through `runMicro` itself. -/

namespace Sys2Proof.Machine

/-! ### Calm programs (R104) -/

theorem calm_append {a b : List Micro} (ha : calm a = true) (hb : calm b = true) : calm (a ++ b) = true := by
  induction a with
  | nil => exact hb
  | cons m a ih =>
    simp only [calm, Bool.or_eq_true, Bool.and_eq_true, List.cons_append] at ha ⊢
    exact ha.imp_right fun h => ⟨h.1, ih h.2⟩

theorem calm_of_all {a : List Micro} (h : a.all Micro.leavesSlot = true) : calm a = true := by
  induction a with
  | nil => rfl
  | cons m a ih =>
    simp only [List.all_cons, Bool.and_eq_true] at h
    simp [calm, h.1, ih h.2]

theorem opensCalmly_append {a b : List Micro} (ha : a.all (fun m => !m.mayOpen) = true) (hb : opensCalmly b = true) :
    opensCalmly (a ++ b) = true := by
  induction a with
  | nil => exact hb
  | cons m a ih =>
    simp only [List.all_cons, Bool.and_eq_true] at ha
    simp [opensCalmly, ha.1, ih ha.2]

/-! ### Micro-steps -/

/-- A micro-step after which nothing need follow. -/
def Micro.mayEnd : Micro → Bool
  | .modify _ _ _ | .receiveTest | .popLength | .popTarget _ | .applyFilter _ _ | .popSender _ _ | .popControl _ _ _
  | .canSendMode | .canSendPending | .canSendMeasure | .captureSender _ | .loadFrame _ _ _ | .ackSender _
  | .retryLoop _ | .startWindow _ | .windowTest _ _ | .windowPoll _ _ => false
  | _ => true

/-- What a micro-step puts in front of its context's position. -/
inductive Follows : Micro → List Micro → Prop
  | nothing (m : Micro) (h : m.mayEnd = true) : Follows m []
  | modify (a : Addr) (keep set v : Byte) : Follows (.modify a keep set) [.regWrite a v]
  | setMode (c : Cfg) (t : BitVec 3) (m : RadioMode) (h : modeOf t = some m) : Follows (.setMode t) (transition c m)
  | waitIfSleep : Follows .waitIfSleep [.waitModeReady]
  | waitModeReady : Follows .waitModeReady [.waitModeReady]
  | restart (c : Cfg) : Follows .restartIfStale [modifyOr c.regmap.aPktcfg c.regmap.bRestartRx]
  | found : Follows .receiveTest receiveDoneFound
  | rearm (c : Cfg) : Follows .receiveTest (receiveDoneRearm c)
  | edgeGuard : Follows .edgeGuard [.edgeStatus]
  | edgeStatus : Follows .edgeStatus [.setMode 1, .popLength]
  | malformed (c : Cfg) : Follows .popLength (discard c)
  | oversize : Follows .popLength [.raiseOversize]
  | popLength (l : Byte) (h : 3 ≤ l.toNat ∧ l.toNat ≤ 64) : Follows .popLength [.popTarget l]
  | popTarget (l t : Byte) : Follows (.popTarget l) [.applyFilter l t]
  | accept (l t : Byte) : Follows (.applyFilter l t) [.popSender l t]
  | reject (c : Cfg) (l t : Byte) : Follows (.applyFilter l t) (discard c)
  | popSender (l t sn : Byte) : Follows (.popSender l t) [.popControl l t sn]
  | popControl (l t sn k : Byte) : Follows (.popControl l t sn)
      ((List.range (payloadLengthOf l).toNat).map Micro.popPayload
        ++ [.storeFrame l t sn k, .setMode 3, .sampleRssi])
  | canSendReceive : Follows .canSendMode [.canSendPending]
  | canSendOther : Follows .canSendMode [.canSendStandby]
  | canSendPending : Follows .canSendPending [.ret false]
  | canSendEmpty : Follows .canSendPending [.canSendMeasure]
  | canSendClear : Follows .canSendMeasure [.setMode 1, .ret true]
  | canSendBusy : Follows .canSendMeasure [.ret false]
  | spin : Follows .spinTest (receiveDone ++ spinUntilClear)
  | captureSender (c : Cfg) (t : Byte) (p : List Byte) :
      Follows (.captureSender p) (spinUntilClear ++ sendFrame c t p false true)
  | loadFrame (c : Cfg) (t k : Byte) (p bytes : List Byte) : Follows (.loadFrame t k p) (sendFrameBody c bytes)
  | waitLine : Follows .waitLine [.waitLine]
  | ackMatch (f : Byte) : Follows (.ackSender f) [.ackFlag]
  | ackNoMatch (f : Byte) : Follows (.ackSender f) [.ret false]
  | retryOver (r : RetrySession) : Follows (.retryLoop r) [.ret false]
  | retrySend (c : Cfg) (r : RetrySession) :
      Follows (.retryLoop r) (send c r.targetAddress r.payload true ++ [.startWindow r])
  | startWindow (r : RetrySession) (t0 : Millis) : Follows (.startWindow r) [.windowTest r t0]
  | windowOpen (r : RetrySession) (t0 : Millis) :
      Follows (.windowTest r t0) (retryPoll r.targetAddress ++ [.windowPoll r t0])
  | windowOver (r : RetrySession) (t0 : Millis) : Follows (.windowTest r t0) [.retryLoop r.next]
  | pollMatch (r : RetrySession) (t0 : Millis) : Follows (.windowPoll r t0) [.ret true]
  | pollAgain (r : RetrySession) (t0 : Millis) : Follows (.windowPoll r t0) [.windowTest r t0]

theorem follows_nil {m : Micro} {ms : List Micro} (h : Follows m ms) (hn : ms = []) : m.mayEnd = true := by
  cases h with
  | nothing h => assumption
  | popControl l t sn k => exact absurd hn (by simp)
  | _ => first | rfl | exact absurd hn (List.cons_ne_nil _ _)

/-- A position that writes the slot (R19). -/
def Micro.writesSlot : Micro → Bool
  | .clearField _ | .popPayload _ | .storeFrame _ _ _ _ | .sampleRssi => true
  | _ => false

/-- What a micro-step changes of the slot. -/
inductive SlotStep : Micro → Slot → Slot → Prop
  | same (m : Micro) (sl : Slot) (h : m.writesSlot = false) : SlotStep m sl sl
  | clear (f : SlotField) (sl : Slot) : SlotStep (.clearField f) sl (sl.clearField f)
  | byte (i : Nat) (b : Byte) (sl : Slot) :
      SlotStep (.popPayload i) sl { sl with payload := Memory.write sl.payload i b }
  | store (l t sn k : Byte) (sl : Slot) : SlotStep (.storeFrame l t sn k) sl (sl.store l t sn k)
  | sample (r : Rssi) (sl : Slot) : SlotStep .sampleRssi sl { sl with rssi := r }

/-- What a micro-step changes of the enable and of the saved enables. -/
inductive EnableStep : Micro → Bool → List Bool → Bool → List Bool → Prop
  | enter (e : Bool) (l : List Bool) : EnableStep .enterCritical e l false (e :: l)
  | leave (e c : Bool) (l : List Bool) : EnableStep .exitCritical e (c :: l) c l
  | unmatched (e : Bool) : EnableStep .exitCritical e [] e []
  | irqReturn (e : Bool) (l : List Bool) : EnableStep .irqReturn e l true l
  | same (m : Micro) (e : Bool) (l : List Bool) (h : m ≠ .enterCritical ∧ m ≠ .exitCritical ∧ m ≠ .irqReturn) :
      EnableStep m e l e l

/-- A position that writes the latest sub-operation's Bool. -/
def Micro.setsFlag : Micro → Bool
  | .configBlob _ _ _ | .canSendStandby | .ackFlag | .ret _ => true
  | _ => false

/-- A position that hands a result to the host. -/
def Micro.finishes : Micro → Bool
  | .finish _ => true
  | _ => false

/-- What a micro-step changes besides the positions. -/
structure Changes (m : Micro) (s t : State) : Prop where
  cfg : t.cfg = s.cfg
  port : t.port = s.port
  pending : t.irqPending = s.irqPending
  boundaries : t.env.boundaries = s.env.boundaries
  trace : s.trace <+: t.trace
  mode : t.mode = s.mode ∨ m = .storeMode t.mode
  faulted : t.faulted = s.faulted ∨ m = .raiseOversize
  slot : SlotStep m s.slot t.slot
  enable : EnableStep m s.irqEnabled s.saved t.irqEnabled t.saved
  window : t.window = true → s.window = true ∧ m.closesWindow = false ∨ m.mayOpen = true ∧ t.mode = .standby
  flag : t.flag = s.flag ∨ m.setsFlag = true
  result : t.result = s.result ∨ m.finishes = true

/-- The position of a context. -/
def State.pos (s : State) : Context → List Micro
  | .fg => s.foreground
  | .irq => s.handler

/-- The other context. -/
def Context.other : Context → Context
  | .fg => .irq
  | .irq => .fg

/-- Everything a micro-step can do. -/
structure MicroStep (ctx : Context) (m : Micro) (s t : State) : Prop where
  follows : ∃ ms, Follows m ms ∧ t.pos ctx = ms ++ s.pos ctx
  other : t.pos ctx.other = s.pos ctx.other
  changes : Changes m s t

/-- The positions put in front of a context play no part in what changes. -/
theorem Changes.push {m : Micro} {s u : State} (hc : Changes m s u) (ctx : Context) (ms : List Micro) :
    Changes m s (u.push ctx ms) := by
  obtain ⟨c1, c2, c3, c4, c5, c6, c7, c8, c9, c10, c11, c12⟩ := hc
  cases ctx <;> exact ⟨c1, c2, c3, c4, c5, c6, c7, c8, c9, c10, c11, c12⟩

/-- A micro-step that answers the state it started from, some fields aside, with a program to follow. -/
theorem MicroStep.of_push {ctx : Context} {m : Micro} {s u : State} {ms : List Micro} (hf : Follows m ms)
    (h1 : u.foreground = s.foreground) (h2 : u.handler = s.handler) (hc : Changes m s u) :
    MicroStep ctx m s (u.push ctx ms) :=
  ⟨⟨ms, hf, by cases ctx <;> simp [State.pos, State.push, h1, h2]⟩,
    by cases ctx <;> simp [State.pos, Context.other, State.push, h1, h2], hc.push ctx ms⟩

theorem MicroStep.of_same {ctx : Context} {m : Micro} {s u : State} (hm : m.mayEnd = true)
    (h1 : u.foreground = s.foreground) (h2 : u.handler = s.handler) (hc : Changes m s u) : MicroStep ctx m s u := by
  have := MicroStep.of_push (ctx := ctx) (Follows.nothing m hm) h1 h2 hc
  cases ctx <;> exact this

/-- A position that is none of the three that change the enable. -/
def Micro.keepsEnable : Micro → Bool
  | .enterCritical | .exitCritical | .irqReturn => false
  | _ => true

theorem EnableStep.of_keeps {m : Micro} (h : m.keepsEnable = true) (e : Bool) (l : List Bool) : EnableStep m e l e l := by
  refine .same m e l ⟨?_, ?_, ?_⟩ <;> rintro rfl <;> cases h

/-- Only a write of the slot closes the reading window. -/
theorem closesWindow_of_writes {m : Micro} (h : m.writesSlot = false) : m.closesWindow = false := by
  cases m with
  | clearField f => cases h
  | storeFrame l t sn k => cases h
  | _ => rfl

/-- A micro-step that leaves mode, slot, enable, window and fault alone. -/
theorem Changes.of_quiet {m : Micro} {s u : State} (hm : (m.keepsEnable && !m.writesSlot) = true)
    (ht : s.trace <+: u.trace)
    (h : (u.cfg, u.port, u.irqPending, u.env.boundaries, u.mode, u.faulted, u.slot, u.irqEnabled, u.saved, u.window)
      = (s.cfg, s.port, s.irqPending, s.env.boundaries, s.mode, s.faulted, s.slot, s.irqEnabled, s.saved, s.window))
    (hf : u.flag = s.flag ∨ m.setsFlag = true := by first | exact .inl rfl | exact .inr rfl)
    (hr : u.result = s.result ∨ m.finishes = true := by first | exact .inl rfl | exact .inr rfl) :
    Changes m s u := by
  simp only [Bool.and_eq_true, Bool.not_eq_true'] at hm
  simp only [Prod.mk.injEq] at h
  obtain ⟨h1, h2, h3, h4, h5, h6, h7, h8, h9, h10⟩ := h
  exact ⟨h1, h2, h3, h4, ht, .inl h5, .inl h6, h7 ▸ .same _ _ hm.2, h8 ▸ h9 ▸ .of_keeps hm.1 _ _,
    fun hw => .inl ⟨h10 ▸ hw, closesWindow_of_writes hm.2⟩, hf, hr⟩

/-- A micro-step that makes no transaction and leaves flag and result alone. -/
theorem Changes.of_local {m : Micro} {s u : State}
    (h : (u.cfg, u.port, u.irqPending, u.env.boundaries, u.trace, u.flag, u.result)
      = (s.cfg, s.port, s.irqPending, s.env.boundaries, s.trace, s.flag, s.result))
    (hm : u.mode = s.mode ∨ m = .storeMode u.mode) (hf : u.faulted = s.faulted ∨ m = .raiseOversize)
    (hs : SlotStep m s.slot u.slot) (he : EnableStep m s.irqEnabled s.saved u.irqEnabled u.saved)
    (hw : u.window = true → s.window = true ∧ m.closesWindow = false ∨ m.mayOpen = true ∧ u.mode = .standby) :
    Changes m s u := by
  simp only [Prod.mk.injEq] at h
  obtain ⟨h1, h2, h3, h4, h5, h6, h7⟩ := h
  exact ⟨h1, h2, h3, h4, h5 ▸ List.prefix_refl _, hm, hf, hs, he, hw, .inl h6, .inl h7⟩

theorem Changes.none {m : Micro} (s : State) (hm : (m.keepsEnable && !m.writesSlot) = true) : Changes m s s :=
  .of_quiet hm (List.prefix_refl _) rfl

theorem Changes.regRead {m : Micro} (s : State) (ctx : Context) (a : Addr)
    (hm : (m.keepsEnable && !m.writesSlot) = true) : Changes m s (s.regRead ctx a) :=
  .of_quiet hm (List.prefix_append _ _) rfl

/-- A micro-step that opens the reading window: the mode is Standby where it does (R104). -/
theorem Changes.openWindow {m : Micro} (s : State) (hm : m.mayOpen = true)
    (he : (m.keepsEnable && !m.writesSlot) = true) : Changes m s s.openWindow := by
  have h := he
  simp only [Bool.and_eq_true, Bool.not_eq_true'] at h
  exact .of_local rfl (.inl rfl) (.inl rfl) (.same _ _ h.2) (.of_keeps h.1 _ _) (fun hw => .inr ⟨hm, by simpa using hw⟩)

/-- Everything a micro-step can do. -/
theorem runMicro_step {ctx : Context} {m : Micro} {s t : State} (h : runMicro ctx m s = .next t) :
    MicroStep ctx m s t := by
  cases m with
  | regWrite a v => cases h; exact .of_same rfl rfl rfl (.of_quiet rfl (List.prefix_append _ _) rfl)
  | modify a keep set => cases h; exact .of_push (.modify ..) rfl rfl (.regRead _ _ _ rfl)
  | enterCritical =>
    cases h
    exact .of_same rfl rfl rfl
      (.of_local rfl (.inl rfl) (.inl rfl) (.same _ _ rfl) (.enter _ _) (fun hw => .inl ⟨hw, rfl⟩))
  | exitCritical =>
    cases h
    unfold State.exitCritical
    split
    · rename_i hs
      exact .of_same rfl rfl rfl
        (.of_local rfl (.inl rfl) (.inl rfl) (.same _ _ rfl) (hs ▸ .leave _ _ _) (fun hw => .inl ⟨hw, rfl⟩))
    · rename_i hs
      refine .of_same rfl rfl rfl (.of_local rfl (.inl rfl) (.inl rfl) (.same _ _ rfl) ?_ (fun hw => .inl ⟨hw, rfl⟩))
      rw [hs]
      exact .unmatched _
  | setMode c =>
    cases h
    unfold runSetMode
    split
    · exact .of_same rfl rfl rfl (.none _ rfl)
    · split
      · exact .of_same rfl rfl rfl (.none _ rfl)
      · exact .of_push (.setMode _ _ _ ‹_›) rfl rfl (.none _ rfl)
  | waitIfSleep =>
    cases h
    unfold runWaitIfSleep
    split
    · exact .of_push .waitIfSleep rfl rfl (.none _ rfl)
    · exact .of_same rfl rfl rfl (.none _ rfl)
  | waitModeReady =>
    cases h
    unfold runWaitModeReady
    dsimp only
    split
    · exact .of_same rfl rfl rfl (.regRead _ _ _ rfl)
    · exact .of_push .waitModeReady rfl rfl (.regRead _ _ _ rfl)
  | storeMode r =>
    cases h
    exact .of_same rfl rfl rfl
      (.of_local rfl (.inr rfl) (.inl rfl) (.same _ _ rfl) (.of_keeps rfl _ _) (fun hw => .inl ⟨hw, rfl⟩))
  | configBlob band nodeId networkId => cases h; exact .of_same rfl rfl rfl (.of_quiet rfl (List.prefix_refl _) rfl)
  | putLocalAddress a => cases h; exact .of_same rfl rfl rfl (.of_quiet rfl (List.prefix_refl _) rfl)
  | putNetworkId n => cases h; exact .of_same rfl rfl rfl (.of_quiet rfl (List.prefix_refl _) rfl)
  | putPromiscuous on => cases h; exact .of_same rfl rfl rfl (.of_quiet rfl (List.prefix_refl _) rfl)
  | putPowerLevel level => cases h; exact .of_same rfl rfl rfl (.of_quiet rfl (List.prefix_refl _) rfl)
  | putInitialized => cases h; exact .of_same rfl rfl rfl (.of_quiet rfl (List.prefix_refl _) rfl)
  | clearField f =>
    cases h
    refine .of_same rfl rfl rfl (.of_local rfl (.inl rfl) (.inl rfl) (.clear f _) (.of_keeps rfl _ _) fun hw => ?_)
    change (s.window && !f.empties) = true at hw
    simp only [Bool.and_eq_true, Bool.not_eq_true'] at hw
    exact .inl hw
  | restartIfStale =>
    cases h
    unfold runRestartIfStale
    dsimp only
    split
    · exact .of_push (.restart _) rfl rfl (.regRead _ _ _ rfl)
    · exact .of_same rfl rfl rfl (.regRead _ _ _ rfl)
  | receiveTest =>
    cases h
    unfold runReceiveTest
    split
    · exact .of_push .found rfl rfl (.none _ rfl)
    · exact .of_push (.rearm _) rfl rfl (.none _ rfl)
  | edgeGuard =>
    cases h
    unfold runEdgeGuard
    split
    · exact .of_push .edgeGuard rfl rfl (.none _ rfl)
    · exact .of_same rfl rfl rfl (.none _ rfl)
  | edgeStatus =>
    cases h
    unfold runEdgeStatus
    dsimp only
    split
    · exact .of_push .edgeStatus rfl rfl (.regRead _ _ _ rfl)
    · exact .of_same rfl rfl rfl (.regRead _ _ _ rfl)
  | popLength =>
    cases h
    unfold runPopLength
    dsimp only
    split
    · exact .of_push (.malformed _) rfl rfl (.regRead _ _ _ rfl)
    · split
      · exact .of_push .oversize rfl rfl (.regRead _ _ _ rfl)
      · rename_i h1 h2
        refine .of_push (.popLength _ ?_) rfl rfl (.regRead _ _ _ rfl)
        have h3 : ¬ s.readAnswer.toNat < 3 := fun h => h1 (decide_eq_true h)
        have h4 : ¬ 64 < s.readAnswer.toNat := fun h => h2 (decide_eq_true h)
        omega
  | popTarget length => cases h; exact .of_push (.popTarget _ _) rfl rfl (.regRead _ _ _ rfl)
  | applyFilter length target =>
    change runApplyFilter ctx length target s = .next t at h
    revert h
    unfold runApplyFilter
    split
    · rintro ⟨⟩
    · rintro ⟨⟩
      exact .of_push (.accept _ _) rfl rfl (.none _ rfl)
    · rintro ⟨⟩
      exact .of_push (.reject _ _ _) rfl rfl (.none _ rfl)
  | popSender length target => cases h; exact .of_push (.popSender _ _ _) rfl rfl (.regRead _ _ _ rfl)
  | popControl length target sender =>
    cases h
    exact .of_push (.popControl _ _ _ _) rfl rfl (.regRead _ _ _ rfl)
  | popPayload i =>
    cases h
    exact .of_same rfl rfl rfl
      ⟨rfl, rfl, rfl, rfl, List.prefix_append _ _, .inl rfl, .inl rfl, .byte i _ _, .of_keeps rfl _ _,
        fun hw => .inl ⟨hw, rfl⟩, .inl rfl, .inl rfl⟩
  | storeFrame length target sender control =>
    cases h
    exact .of_same rfl rfl rfl
      (.of_local rfl (.inl rfl) (.inl rfl) (.store _ _ _ _ _) (.of_keeps rfl _ _) (fun hw => nomatch hw))
  | sampleRssi =>
    cases h
    exact .of_same rfl rfl rfl
      (.of_local rfl (.inl rfl) (.inl rfl) (.sample _ _) (.of_keeps rfl _ _) (fun hw => .inl ⟨hw, rfl⟩))
  | raiseOversize =>
    cases h
    exact .of_same rfl rfl rfl
      (.of_local rfl (.inl rfl) (.inr rfl) (.same _ _ rfl) (.of_keeps rfl _ _) (fun hw => .inl ⟨hw, rfl⟩))
  | irqReturn =>
    cases h
    exact .of_same rfl rfl rfl
      (.of_local rfl (.inl rfl) (.inl rfl) (.same _ _ rfl) (.irqReturn _ _) (fun hw => .inl ⟨hw, rfl⟩))
  | canSendMode =>
    cases h
    unfold runCanSendMode
    split
    · exact .of_push .canSendReceive rfl rfl (.none _ rfl)
    · exact .of_push .canSendOther rfl rfl (.none _ rfl)
  | canSendPending =>
    cases h
    unfold runCanSendPending
    split
    · exact .of_push .canSendPending rfl rfl (.none _ rfl)
    · exact .of_push .canSendEmpty rfl rfl (.none _ rfl)
  | canSendMeasure =>
    cases h
    unfold runCanSendMeasure
    split
    · exact .of_push .canSendClear rfl rfl (.of_quiet rfl (List.prefix_refl _) rfl)
    · exact .of_push .canSendBusy rfl rfl (.of_quiet rfl (List.prefix_refl _) rfl)
  | canSendStandby => cases h; exact .of_same rfl rfl rfl (.of_quiet rfl (List.prefix_refl _) rfl)
  | spinTest =>
    cases h
    unfold runSpinTest
    split
    · exact .of_same rfl rfl rfl (.none _ rfl)
    · exact .of_push .spin rfl rfl (.none _ rfl)
  | captureSender payload => cases h; exact .of_push (.captureSender _ _ _) rfl rfl (.none _ rfl)
  | loadFrame target control payload =>
    change runLoadFrame ctx target control payload s = .next t at h
    revert h
    unfold runLoadFrame
    split
    · rintro ⟨⟩
    · rintro ⟨⟩
      exact .of_push (.loadFrame _ _ _ _ _) rfl rfl (.none _ rfl)
  | waitLine =>
    cases h
    unfold runWaitLine
    split
    · exact .of_same rfl rfl rfl (.of_quiet rfl (List.prefix_refl _) rfl)
    · exact .of_push .waitLine rfl rfl (.of_quiet rfl (List.prefix_refl _) rfl)
  | ackSender fromAddress =>
    cases h
    unfold runAckSender
    split
    · exact .of_push (.ackMatch _) rfl rfl (.none _ rfl)
    · exact .of_push (.ackNoMatch _) rfl rfl (.none _ rfl)
  | ackFlag => cases h; exact .of_same rfl rfl rfl (.of_quiet rfl (List.prefix_refl _) rfl)
  | retryLoop r =>
    cases h
    unfold runRetryLoop
    split
    · exact .of_push (.retryOver _) rfl rfl (.none _ rfl)
    · exact .of_push (.retrySend _ _) rfl rfl (.none _ rfl)
  | startWindow r =>
    cases h
    exact .of_push (.startWindow _ _) rfl rfl (.of_quiet rfl (List.prefix_refl _) rfl)
  | windowTest r t0 =>
    cases h
    unfold runWindowTest
    split
    · exact .of_push (.windowOpen _ _) rfl rfl (.of_quiet rfl (List.prefix_refl _) rfl)
    · exact .of_push (.windowOver _ _) rfl rfl (.of_quiet rfl (List.prefix_refl _) rfl)
  | windowPoll r t0 =>
    cases h
    unfold runWindowPoll
    split
    · exact .of_push (.pollMatch _ _) rfl rfl (.openWindow _ rfl rfl)
    · exact .of_push (.pollAgain _ _) rfl rfl (.none _ rfl)
  | ret b => cases h; exact .of_same rfl rfl rfl (.of_quiet rfl (List.prefix_refl _) rfl)
  | openWindow =>
    cases h
    unfold runOpenWindow
    split
    · exact .of_same rfl rfl rfl (.openWindow _ rfl rfl)
    · exact .of_same rfl rfl rfl
        (.of_local rfl (.inl rfl) (.inl rfl) (.same _ _ rfl) (.of_keeps rfl _ _) (fun hw => nomatch hw))
  | finish valued => cases h; exact .of_same rfl rfl rfl (.of_quiet rfl (List.prefix_refl _) rfl)

end Sys2Proof.Machine
end

