-- ==== Sys2Proof/Laws/PerInstr.lean ====
section
/-! SUPPORT. The opcode table read backwards, instruction by instruction: every request that decodes to an instruction
has the fixed bits of that instruction's row, so no row's words are taken for another row's. -/

namespace Sys2Proof

/-- The fixed part of a row of the opcode table: its format with the bits that select it. -/
inductive Row where
  | command (op : BitVec 4)
  | event (request : BitVec 1)
  | header
  | encode
  | decode
  | filter
  | control (kind : BitVec 2)
deriving DecidableEq, Repr

/-- The row a request's fixed bits select. -/
def Request.row : Request → Row
  | .command op _ => .command op
  | .event request => .event request
  | .header _ => .header
  | .encode _ _ _ => .encode
  | .decode _ => .decode
  | .filter _ => .filter
  | .control byte => .control (byte.extractLsb' 6 2)

theorem row_of_control (c : Byte) : (encode (decodeControl c)).row = .control (c.extractLsb' 6 2) := by
  revert c; decide

theorem row_of_command (op : BitVec 4) (o : Operands) : (encode (decodeCommand op o)).row = .command op := by
  have h : op = 0 ∨ op = 1 ∨ op = 2 ∨ op = 3 ∨ op = 4 ∨ op = 5 ∨ op = 6 ∨ op = 7 ∨ op = 8 ∨ op = 9 ∨ op = 10
      ∨ op = 11 ∨ op = 12 ∨ op = 13 ∨ op = 14 ∨ op = 15 := by revert op; decide
  rcases h with h | h | h | h | h | h | h | h | h | h | h | h | h | h | h | h <;> subst h <;> rfl

/-- A request that decodes to an instruction has the row of the instruction's own encoding. -/
theorem row_of_decode (r : Request) (i : Instr) (h : decode r = .ok i) : r.row = (encode i).row := by
  cases r with
  | command op o => cases h; exact (row_of_command op o).symm
  | event request =>
    change (if request = 1#1 then Except.ok Instr.onReadyEdge else .error DecodeError.noInterruptRequest) = .ok i at h
    split at h
    · rename_i hr; cases h; subst hr; rfl
    · cases h
  | header word => cases h; rfl
  | encode t c p => cases h; rfl
  | decode b => cases h; rfl
  | filter t => cases h; rfl
  | control byte => cases h; exact (row_of_control byte).symm

namespace Laws.TableRow

/-- Whatever request decodes to the instruction has the fixed bits the table gives its row. -/
def Statement (i : Instr) : Prop :=
  ∀ r : Request, decode r = .ok i → r.row = (encode i).row

theorem initBlock (band nodeId networkId : Byte) : Statement (.initBlock band nodeId networkId) :=
  fun r h => row_of_decode r _ h

theorem setAddress (addr : Byte) : Statement (.setAddress addr) :=
  fun r h => row_of_decode r _ h

theorem setPowerLevel (level : Byte) : Statement (.setPowerLevel level) :=
  fun r h => row_of_decode r _ h

theorem promiscuous (on : Bool) : Statement (.promiscuous on) :=
  fun r h => row_of_decode r _ h

theorem send (target : Byte) (payload : List Byte) (requestAck : Bool) :
    Statement (.send target payload requestAck) :=
  fun r h => row_of_decode r _ h

theorem sendWithRetry (target : Byte) (payload : List Byte) (retries : Byte) (timeoutMs : BitVec 16) :
    Statement (.sendWithRetry target payload retries timeoutMs) :=
  fun r h => row_of_decode r _ h

theorem receiveDone : Statement .receiveDone :=
  fun r h => row_of_decode r _ h

theorem ackReceived (fromAddress : Byte) : Statement (.ackReceived fromAddress) :=
  fun r h => row_of_decode r _ h

theorem sendAck (payload : List Byte) : Statement (.sendAck payload) :=
  fun r h => row_of_decode r _ h

theorem setEncryptionKey (key : Option (List Byte)) : Statement (.setEncryptionKey key) :=
  fun r h => row_of_decode r _ h

theorem setMode (mode : BitVec 3) : Statement (.setMode mode) :=
  fun r h => row_of_decode r _ h

theorem canSend : Statement .canSend :=
  fun r h => row_of_decode r _ h

theorem receiveBegin : Statement .receiveBegin :=
  fun r h => row_of_decode r _ h

theorem sendFrame (target : Byte) (payload : List Byte) (requestAck sendAck : Bool) :
    Statement (.sendFrame target payload requestAck sendAck) :=
  fun r h => row_of_decode r _ h

theorem cmdUnassignedE : Statement .cmdUnassignedE :=
  fun r h => row_of_decode r _ h

theorem cmdUnassignedF : Statement .cmdUnassignedF :=
  fun r h => row_of_decode r _ h

theorem onReadyEdge : Statement .onReadyEdge :=
  fun r h => row_of_decode r _ h

theorem frameHeader (length target sender : Byte) (ackReply ackRequest : Bool) :
    Statement (.frameHeader length target sender ackReply ackRequest) :=
  fun r h => row_of_decode r _ h

theorem encode (target control : Byte) (payload : List Byte) : Statement (.encode target control payload) :=
  fun r h => row_of_decode r _ h

theorem decode (bytes : List Byte) : Statement (.decode bytes) :=
  fun r h => row_of_decode r _ h

theorem filter (target : Byte) : Statement (.filter target) :=
  fun r h => row_of_decode r _ h

theorem ctlData (low : BitVec 6) : Statement (.ctlData low) :=
  fun r h => row_of_decode r _ h

theorem ctlDataAckreq (low : BitVec 6) : Statement (.ctlDataAckreq low) :=
  fun r h => row_of_decode r _ h

theorem ctlAck (low : BitVec 6) : Statement (.ctlAck low) :=
  fun r h => row_of_decode r _ h

theorem ctlAckAckreq (low : BitVec 6) : Statement (.ctlAckAckreq low) :=
  fun r h => row_of_decode r _ h

end Laws.TableRow

end Sys2Proof
end

