-- ==== Sys2Proof/Laws/Sending.lean ====
section
/-! SUPPORT. The spin loop that grants at once or after one poll, and the gated transmission of SEND and SEND_ACK from
there (R113, R115, R122). -/

namespace Sys2Proof.Machine

variable {s : State} {rest : List Micro}

theorem Slot.pending_iff (sl : Slot) : sl.pending = true ↔ sl.pendingLength ≠ 0 := by
  simp [Slot.pending, Nat.pos_iff_ne_zero, BitVec.toNat_eq]

theorem Slot.pending_eq_false_iff (sl : Slot) : sl.pending = false ↔ sl.pendingLength = 0 := by
  rw [← Bool.not_eq_true, Slot.pending_iff]
  simp

/-- The comparison of R112 is on signed integers. -/
theorem channelClear_iff (r l : Rssi) : channelClear r l = true ↔ r.toInt < l.toInt := by
  simp [channelClear, BitVec.slt]

/-- The state in which a granting spin loop leaves the block. -/
def State.granted (s : State) (pos : Nat) : State :=
  ((s.measured.io (s.grantEvents pos) s.grantReads).withFlag true).inMode .standby

/-- `SpinUntilClear()` where the gate grants at once or after one poll (R113). -/
theorem reaches_spin_grants (h : s.running .fg) (hg : s.grants) :
    Reaches (11 + setModeCost s.cfg 0) (s.atPos .fg (spinUntilClear ++ rest)) ((s.granted 0).atPos .fg rest) := by
  rcases hg with hm | ⟨hm, hg⟩
  · have g := reaches_spin_standby (rest := rest) h hm
    have e : s.granted 0 = s.withFlag true := by
      cases s
      simp only at hm
      simp [State.granted, State.measured, State.grantEvents, State.grantReads, hm, State.withFlag, State.inMode]
    rw [e]
    exact g.mono (by omega)
  · by_cases hp : s.slot.pendingLength = 0
    · have hc := (channelClear_iff _ _).2 (hg.resolve_left (fun h' => h' hp))
      have g1 := reaches_canSend_clear (rest := .spinTest :: rest) h hm ((Slot.pending_eq_false_iff _).2 hp) hc
      have g2 := reaches_spinTest_granted (rest := rest)
        (s := ((s.drawRssi.io (modeEvents .fg s.cfg .standby (s.readAt 0)) 1).withFlag true).inMode .standby) h rfl
      have e : s.granted 0 =
          ((s.drawRssi.io (modeEvents .fg s.cfg .standby (s.readAt 0)) 1).withFlag true).inMode .standby := by
        simp [State.granted, State.measured, State.grantEvents, State.grantReads, hm, hp]
      rw [e]
      exact (g1.trans g2).mono (by omega)
    · have g1 := reaches_canSend_pending (rest := .spinTest :: rest) h hm ((Slot.pending_iff _).2 hp)
      have g2 := reaches_spinTest_again (rest := rest) (s := s.withFlag false) h rfl
      have g3 := reaches_receiveDone_found (rest := .canSendMode :: .spinTest :: rest) (s := s.withFlag false) h hm
        ((Slot.pending_iff _).2 hp)
      have g4 := reaches_spin_standby (rest := rest)
        (s := (((s.withFlag false).io (modeEvents .fg s.cfg .standby (s.readAt 0)) 1).withFlag true).inMode .standby) h
        rfl
      have e : s.granted 0 =
          ((s.io (modeEvents .fg s.cfg .standby (s.readAt 0)) 1).withFlag true).inMode .standby := by
        have hno : ¬(s.mode = .receive ∧ s.slot.pendingLength = 0) := fun hh => hp hh.2
        have e0 : s.measured = s := if_neg hno
        simp [State.granted, e0, State.grantEvents, State.grantReads, hm]
      rw [e]
      have := ((g1.trans g2).trans g3).trans g4
      exact this.mono (by rw [State.withFlag_cfg]; omega)

/-- The framed transmission from Standby (R116 lines 3 to 11). -/
theorem reaches_sendFrame_standby (h : s.running .fg) (hm : s.mode = .standby) (a : Byte)
    (ha : s.localAddress = some a) (t : Byte) (p : List Byte) (ra sa : Bool) (n : Nat)
    (hno : ∀ k < n, s.lineAt k = false) (hyes : s.lineAt n = true) :
    Reaches (sendFrameCost s.cfg 0 n) (s.atPos .fg (sendFrame s.cfg t p ra sa ++ rest))
      (((s.io (s.transmitEvents (encodeFrame t a (controlByte ra sa) p) 0) 2).polledLine (n + 1)).atPos .fg rest) := by
  have g := reaches_sendFrame (rest := rest) h a ha t p ra sa 0 n (by simp [hm]) hno hyes
  have e1 : s.setModeEvents .fg s.mode .standby 0 0 = [] := by simp [State.setModeEvents, hm]
  have e2 : setModeReads s.mode .standby 0 = 0 := by simp [setModeReads, hm]
  rw [e1, e2] at g
  have e3 : ∀ u : State, u.mode = .standby → u.inMode .standby = u := by
    intro u hu
    cases u
    simp only at hu
    simp [State.inMode, hu]
  rw [e3 _ (by simp [hm])] at g
  simpa [State.transmitEvents] using g

/-- The spin loop and the framed transmission, where the gate grants at once or after one poll. -/
theorem reaches_gated (h : s.running .fg) (hg : s.grants) (a : Byte) (ha : s.localAddress = some a) (t : Byte)
    (p : List Byte) (ra sa : Bool) (n : Nat) (hno : ∀ k < n, s.lineAt k = false) (hyes : s.lineAt n = true) :
    Reaches (11 + setModeCost s.cfg 0 + sendFrameCost s.cfg 0 n)
      (s.atPos .fg (spinUntilClear ++ (sendFrame s.cfg t p ra sa ++ rest)))
      ((((s.granted 0).io (s.transmitEvents (encodeFrame t a (controlByte ra sa) p) s.grantReads) 2).polledLine
        (n + 1)).atPos .fg rest) := by
  have g1 := reaches_spin_grants (rest := sendFrame s.cfg t p ra sa ++ rest) h hg
  have hcfg : (s.granted 0).cfg = s.cfg := by
    unfold State.granted State.measured
    split <;> rfl
  have hrun : (s.granted 0).running .fg := by
    unfold State.granted State.measured
    split <;> exact h
  have hloc : (s.granted 0).localAddress = some a := by
    unfold State.granted State.measured
    split <;> exact ha
  have hline : ∀ k, (s.granted 0).lineAt k = s.lineAt k := by
    intro k
    unfold State.granted State.measured
    split <;> rfl
  have hread : ∀ k, (s.granted 0).readAt k = s.readAt (s.grantReads + k) := by
    intro k
    unfold State.granted State.measured
    split
    · simp
      rfl
    · simp
  have g2 := reaches_sendFrame_standby (rest := rest) hrun rfl a hloc t p ra sa n
    (fun k hk => by rw [hline]; exact hno k hk) (by rw [hline]; exact hyes)
  rw [hcfg] at g2
  have e : ∀ f, (s.granted 0).transmitEvents f 0 = s.transmitEvents f s.grantReads := by
    intro f
    simp [State.transmitEvents, hcfg, hread]
  rw [e] at g2
  exact g1.trans g2

end Sys2Proof.Machine
end

