-- ==== Sys2Proof/Laws/Retry.lean ====
section
/-! SUPPORT. SEND_WITH_RETRY where no interrupt cuts in: its window test, its poll on both paths, one `Send` of it, and
the small lemmas of the states that claims about it are stated in (R120, R121). -/

namespace Sys2Proof.Machine

variable {s : State} {rest : List Micro}

/-- The window test is a strict comparison of the elapsed time, modulo 2^32 (R75 (i)). -/
theorem withinWindow_iff (now t0 : Millis) (timeout : BitVec 16) :
    withinWindow now t0 timeout = true ↔ (now - t0).toNat < timeout.toNat := by
  rw [withinWindow, BitVec.ult, decide_eq_true_iff, BitVec.toNat_setWidth,
    Nat.mod_eq_of_lt (show timeout.toNat < 2 ^ 32 by omega)]

theorem withinWindow_eq_false_iff (now t0 : Millis) (timeout : BitVec 16) :
    withinWindow now t0 timeout = false ↔ timeout.toNat ≤ (now - t0).toNat := by
  rw [← Bool.not_eq_true, withinWindow_iff, Nat.not_lt]

/-- A poll of SEND_WITH_RETRY that finds no frame (R103, R121 line 3). -/
theorem reaches_retryPoll_empty (h : s.running .fg)
    (hm : s.mode = .standby ∨ s.mode = .receive ∧ s.slot.pending = false) (t : Byte) :
    Reaches (6 + rearmCost s.cfg 0) (s.atPos .fg (retryPoll t ++ rest)) (s.rearmed.atPos .fg rest) := by
  have hn : s.mode ≠ .sleep := by rcases hm with h | h <;> simp [h]
  have hp : ¬(s.mode = .receive ∧ s.slot.pending = true) := by rcases hm with h | h <;> simp [h]
  have h1 := reaches_receiveDone_rearm (rest := .ackSender t :: rest) h hp 0 (fun h' => absurd h' hn)
  have e : ((((s.io (s.rearmEvents .fg s.mode 0 0) (s.rearmReads s.mode 0 0)).withFlag false).withSlot s.slot.cleared
      false).inMode .receive) = s.rearmed := rfl
  rw [e] at h1
  have h2 : Reaches 1 (s.rearmed.atPos .fg (.ackSender t :: rest)) (s.rearmed.atPos .fg (.ret false :: rest)) :=
    reaches_micro h rfl
  have h3 : Reaches 1 (s.rearmed.atPos .fg (.ret false :: rest)) (s.rearmed.atPos .fg rest) := reaches_micro h rfl
  exact ((h1.trans h2).trans h3).mono (by omega)

/-- A poll of SEND_WITH_RETRY that finds the matching acknowledgement: Standby, and true (R121 line 2). -/
theorem reaches_retryPoll_match (h : s.running .fg) (hm : s.mode = .receive) (hp : s.slot.pending = true) (t : Byte)
    (hs : senderMatches s.slot.senderAddress t = true) (ha : s.slot.ackReply = true) :
    Reaches (6 + setModeCost s.cfg 0) (s.atPos .fg (retryPoll t ++ rest))
      ((((s.io (modeEvents .fg s.cfg .standby (s.readAt 0)) 1).withFlag true).inMode .standby).atPos .fg rest) := by
  have h1 := reaches_receiveDone_found (rest := .ackSender t :: rest) h hm hp
  set w := ((s.io (modeEvents .fg s.cfg .standby (s.readAt 0)) 1).withFlag true).inMode .standby with hw
  have h2 : Reaches 1 (w.atPos .fg (.ackSender t :: rest)) (w.atPos .fg (.ackFlag :: rest)) := by
    refine reaches_micro (s := w) h ?_
    have hf : w.flag = true := rfl
    have hs' : senderMatches w.slot.senderAddress t = true := hs
    simp only [runMicro, runAckSender, State.atPos_flag, State.atPos_slot, hf, hs', State.atPos_push]
    rfl
  have h3 : Reaches 1 (w.atPos .fg (.ackFlag :: rest)) (w.atPos .fg rest) := by
    refine reaches_micro (s := w) h ?_
    have ha' : w.slot.ackReply = true := ha
    simp only [runMicro, runAckFlag, State.atPos_slot, ha']
    rfl
  exact ((h1.trans h2).trans h3).mono (by omega)

/-- One `Send` of SEND_WITH_RETRY, granted and complete at the first poll of the ready line (R115). -/
theorem reaches_sent (h : s.running .fg) (hg : s.grants) (a : Byte) (ha : s.localAddress = some a)
    (hl : s.lineAt 0 = true) (t : Byte) (p : List Byte) :
    Reaches (20 + setModeCost s.cfg 0 + sendFrameCost s.cfg 0 0) (s.atPos .fg (send s.cfg t p true ++ rest))
      ((s.sent (encodeFrame t a 0x40 p)).atPos .fg rest) := by
  have h1 := reaches_restartWrite (rest := spinUntilClear ++ (sendFrame s.cfg t p true false ++ rest)) h
  set v := s.io (restartEvents .fg s.cfg (s.readAt 0)) 1 with hv
  have h2 := reaches_gated (rest := rest) (s := v) h hg a ha t p true false 0 (by simp) hl
  have hc : v.cfg = s.cfg := rfl
  have g := (h1.trans h2).mono (b := 20 + setModeCost s.cfg 0 + sendFrameCost s.cfg 0 0) (by rw [hc]; omega)
  have er : v.grantReads = s.grantReads := rfl
  have ee : v.grantEvents 0 = s.grantEvents 1 := by simp [State.grantEvents, hv]
  have et : ∀ f, v.transmitEvents f v.grantReads = s.transmitEvents f (1 + s.grantReads) := by
    intro f
    rw [er]
    simp only [State.transmitEvents, hv, State.io_readAt, State.io_cfg, Nat.add_assoc]
  have em : v.measured = s.measured.io (restartEvents .fg s.cfg (s.readAt 0)) 1 := by
    unfold State.measured
    by_cases hm : s.mode = .receive ∧ s.slot.pendingLength = 0
    · rw [if_pos hm, if_pos (show v.mode = .receive ∧ v.slot.pendingLength = 0 from hm)]
      rfl
    · rw [if_neg hm, if_neg (show ¬(v.mode = .receive ∧ v.slot.pendingLength = 0) from hm)]
  rw [et, State.granted, er, ee, em] at g
  simp only [State.io_io, State.io_inMode, State.io_withFlag, State.polledLine_inMode, State.polledLine_withFlag,
    show 1 + s.grantReads + 2 = s.grantReads + 3 by omega] at g
  have e : restartWrite s.cfg ++ (spinUntilClear ++ (sendFrame s.cfg t p true false ++ rest))
      = send s.cfg t p true ++ rest := by simp [send]
  rw [e] at g
  exact g

/-! ### The states of an attempt -/

section
variable (f : List Byte) (k n : Nat)

@[simp] theorem State.sent_mode : (s.sent f).mode = .standby := rfl
@[simp] theorem State.sent_cfg : (s.sent f).cfg = s.cfg := by unfold State.sent State.measured; split <;> rfl
@[simp] theorem State.sent_foreground : (s.sent f).foreground = s.foreground := by
  unfold State.sent State.measured; split <;> rfl
@[simp] theorem State.sent_localAddress : (s.sent f).localAddress = s.localAddress := by
  unfold State.sent State.measured; split <;> rfl
@[simp] theorem State.sent_nowAt : (s.sent f).nowAt k = s.nowAt k := by
  unfold State.sent State.measured State.nowAt; split <;> rfl
theorem State.sent_running (h : s.running .fg) : (s.sent f).running .fg := by
  unfold State.sent State.measured; split <;> exact h

@[simp] theorem State.drawNow_nowAt : s.drawNow.nowAt k = s.nowAt (k + 1) := by
  simp only [State.nowAt, State.drawNow, Source.rest_eq_drop, Source.answerAt, Source.drop_drop, Nat.add_comm 1 k]

@[simp] theorem State.rearmed_mode : s.rearmed.mode = .receive := rfl
@[simp] theorem State.rearmed_slot : s.rearmed.slot = s.slot.cleared := rfl
@[simp] theorem State.rearmed_cfg : s.rearmed.cfg = s.cfg := rfl
@[simp] theorem State.rearmed_nowAt : s.rearmed.nowAt k = s.nowAt k := rfl
theorem State.rearmed_running (h : s.running .fg) : s.rearmed.running .fg := h

theorem State.polled_succ : s.polled (n + 1) = (s.drawNow.rearmed).polled n := rfl

end

end Sys2Proof.Machine
end

