-- ==== Sys2Proof/Laws/Step.lean ====
section
/-! SUPPORT. Everything one boundary, one tick, one instruction and one step can do, said once; and the induction that
carries an invariant from the tick to the step. -/

namespace Sys2Proof.Machine

/-- A boundary leaves everything but the pending interrupt and the schedule, or enters the interrupt context. -/
theorem boundary_cases (s : State) :
    (∃ p l, s.boundary = { s with irqPending := p, env := { s.env with boundaries := l } }) ∨
    (s.irqEnabled = true ∧ ∃ l, s.boundary = { s with
      irqPending := false, irqEnabled := false, handler := handlerProgram ++ s.handler,
      env := { s.env with boundaries := l } }) := by
  unfold State.boundary State.takeInterrupt State.enterInterrupt State.edge
  split
  · rename_i hb
    split
    · rename_i h
      exact .inr ⟨by simp at h; exact h.1, [], by rw [← hb]⟩
    · exact .inl ⟨s.irqPending, [], by rw [← hb]⟩
  · rename_i b l hb
    dsimp only
    by_cases he : b.edge = true
    · simp only [he, if_true]
      split
      · rename_i h
        exact .inr ⟨by simp at h; exact h.2, l, rfl⟩
      · exact .inl ⟨true, l, rfl⟩
    · simp only [he, Bool.false_eq_true, if_false]
      split
      · rename_i h
        exact .inr ⟨by simp at h; exact h.1.2, l, rfl⟩
      · exact .inl ⟨s.irqPending, l, rfl⟩

/-- The state with the first position of a context taken. -/
def State.popped (s : State) (ctx : Context) (rest : List Micro) : State :=
  match ctx with
  | .fg => { s with foreground := rest }
  | .irq => { s with handler := rest }

/-- An advance is a micro-step of the interrupt context while it runs, else of the foreground; or nothing is left. -/
theorem advance_cases {s t : State} (h : advance s = .next t) :
    (s.idle = true ∧ t = s) ∨
    ∃ ctx m rest, s.pos ctx = m :: rest ∧ (ctx = .fg → s.handler = [])
      ∧ runMicro ctx m (s.popped ctx rest) = .next t := by
  unfold advance at h
  split at h
  · rename_i m rest hh
    exact .inr ⟨.irq, m, rest, hh, fun h => (by cases h), h⟩
  · rename_i hh
    split at h
    · rename_i m rest hf
      exact .inr ⟨.fg, m, rest, hf, fun _ => hh, h⟩
    · rename_i hf
      cases h
      exact .inl ⟨by simp [State.idle, hh, hf], rfl⟩

/-- What every tick keeps, a run keeps. -/
theorem drive_inv {P : State → Prop} (htick : ∀ s t, P s → tick s = .next t → P t) :
    ∀ (n : Nat) (s t : State), P s → drive n s = .next t → P t := by
  intro n
  induction n with
  | zero => intro s t hp h; cases h; exact hp
  | succ n ih =>
    intro s t hp h
    unfold drive at h
    split at h
    · cases h; exact hp
    · split at h
      · rename_i u hu; exact ih u t (htick s u hp hu) h
      · cases h
      · cases h

/-- Where every tick answers a next state and keeps a property, so does a run. -/
theorem drive_next {P : State → Prop} (htick : ∀ s, P s → ∃ t, tick s = .next t ∧ P t) :
    ∀ (n : Nat) (s : State), P s → ∃ t, drive n s = .next t ∧ P t := by
  intro n
  induction n with
  | zero => intro s hs; exact ⟨s, rfl, hs⟩
  | succ n ih =>
    intro s hs
    unfold drive
    split
    · exact ⟨s, rfl, hs⟩
    · obtain ⟨t, ht, hp⟩ := htick s hs
      rw [ht]
      exact ih t hp

/-- The program each command launches. -/
inductive Launches : Instr → State → List Micro → Prop
  | init (s : State) (b n w : Byte) : Launches (.initBlock b n w) s (initBlock b n w)
  | setAddress (s : State) (a : Byte) : Launches (.setAddress a) s [.putLocalAddress a, .finish false]
  | setPowerLevel (s : State) (l : Byte) :
      Launches (.setPowerLevel l) s (setPowerLevel s.cfg (l.setWidth 5) ++ [.finish false])
  | promiscuous (s : State) (on : Bool) : Launches (.promiscuous on) s [.putPromiscuous on, .finish false]
  | send (s : State) (t : Byte) (p : List Byte) (r : Bool) :
      Launches (.send t p r) s (send s.cfg t p r ++ [.finish false])
  | retry (s : State) (t : Byte) (p : List Byte) (r : Byte) (m : BitVec 16) :
      Launches (.sendWithRetry t p r m) s [.retryLoop ⟨attemptsOf r, m, t, p⟩, .finish true]
  | receiveDone (s : State) : Launches .receiveDone s (receiveDone ++ [.openWindow, .finish true])
  | ackReceived (s : State) (f : Byte) : Launches (.ackReceived f) s (ackReceived f ++ [.finish true])
  | sendAck (s : State) (p : List Byte) : Launches (.sendAck p) s [.captureSender p, .finish false]
  | setEncryptionKey (s : State) (k : Option (List Byte)) :
      Launches (.setEncryptionKey k) s (setEncryptionKey s.cfg k ++ [.finish false])
  | setMode (s : State) (t : BitVec 3) : Launches (.setMode t) s [.setMode t, .finish false]
  | canSend (s : State) : Launches .canSend s [.canSendMode, .finish true]
  | receiveBegin (s : State) : Launches .receiveBegin s (critical (receiveBegin s.cfg) ++ [.finish false])
  | sendFrame (s : State) (t : Byte) (p : List Byte) (r a : Bool) :
      Launches (.sendFrame t p r a) s (sendFrame s.cfg t p r a ++ [.finish false])

theorem command_next {o : Option Refusal} {p : List Micro} {s t : State} (h : command o p s = .next t) :
    s.idle = true ∧ drive (stepBudget s.cfg) { s with foreground := p, result := none } = .next t := by
  unfold command at h
  split at h
  · cases h
  · split at h
    · cases h
    · split at h
      · cases h
      · split at h
        · cases h
        · exact ⟨by simpa using ‹¬(!s.idle) = true›, h⟩

theorem evaluate_next {a : Except Refusal Result} {s t : State} (h : evaluate a s = .next t) :
    s.idle = true ∧ ∃ r, t = { s with result := some r } := by
  unfold evaluate at h
  split at h
  · cases h
  · split at h
    · cases h
    · split at h
      · cases h; exact ⟨by simpa using ‹¬(!s.idle) = true›, _, rfl⟩
      · cases h

/-- The commands that leave the reading window as it is when they start: all that cannot reach `ReceiveBegin()` or
`SetMode(3)`, INITIALIZE aside (R104; log entry 7). -/
def keepsWindow : Instr → Bool
  | .initBlock _ _ _ | .sendWithRetry _ _ _ _ | .receiveDone | .ackReceived _ | .receiveBegin => false
  | .setMode t => t != 3
  | _ => true

/-- Everything an instruction can do where it answers a next state. -/
inductive ExecStep (i : Instr) (s t : State) : Prop
  | launched (p : List Micro) (hl : Launches i s p) (hi : s.idle = true)
      (h : drive (stepBudget s.cfg)
        { s with window := s.window && keepsWindow i, foreground := p, result := none } = .next t)
  | evaluated (r : Result) (hi : s.idle = true) (h : t = { s with result := some r })
  | latched (hi : i = .onReadyEdge) (he : s.irqEnabled = false) (h : t = s.edge)
  | interrupted (hi : i = .onReadyEdge) (he : s.irqEnabled = true)
      (h : drive (stepBudget s.cfg) s.edge.enterInterrupt = .next t)

theorem exec_cases {i : Instr} {s t : State} (h : exec i s = .next t) : ExecStep i s t := by
  have hc : ∀ (o : Option Refusal) (p : List Micro), keepsWindow i = true → Launches i s p →
      command o p s = .next t → ExecStep i s t :=
    fun o p hk hl h => .launched p hl (command_next h).1 (by rw [hk, Bool.and_true]; exact (command_next h).2)
  have hw : ∀ (o : Option Refusal) (p : List Micro), keepsWindow i = false → Launches i s p →
      command o p s.closeWindow = .next t → ExecStep i s t :=
    fun o p hk hl h => .launched p hl (command_next h).1 (by rw [hk, Bool.and_false]; exact (command_next h).2)
  have he : ∀ a : Except Refusal Result, evaluate a s = .next t → ExecStep i s t := by
    intro a h
    obtain ⟨hi, r, ht⟩ := evaluate_next h
    exact .evaluated r hi ht
  cases i with
  | initBlock b n w =>
    change execInitBlock b n w s = _ at h
    unfold execInitBlock at h
    split at h
    · cases h
    · split at h
      · cases h
      · exact .launched _ (.init s b n w) (by simpa using ‹¬(!s.idle) = true›)
          (by rw [show keepsWindow (.initBlock b n w) = false from rfl, Bool.and_false]; exact h)
  | setAddress a => exact hc none _ rfl (.setAddress s a) h
  | setPowerLevel l => exact hc _ _ rfl (.setPowerLevel s l) h
  | promiscuous on => exact hc none _ rfl (.promiscuous s on) h
  | send t p r => exact hc none _ rfl (.send s t p r) h
  | sendWithRetry t p r m => exact hw none _ rfl (.retry s t p r m) h
  | receiveDone => exact hw none _ rfl (.receiveDone s) h
  | ackReceived f => exact hw none _ rfl (.ackReceived s f) h
  | sendAck p => exact hc none _ rfl (.sendAck s p) h
  | setEncryptionKey k => exact hc _ _ rfl (.setEncryptionKey s k) h
  | setMode m =>
    change command none [.setMode m, .finish false] (if m = 3 then s.closeWindow else s) = .next t at h
    split at h
    · rename_i hm
      exact hw none _ (by rw [hm]; rfl) (.setMode s m) h
    · rename_i hm
      exact hc none _ (bne_iff_ne.2 hm) (.setMode s m) h
  | canSend => exact hc none _ rfl (.canSend s) h
  | receiveBegin => exact hw none _ rfl (.receiveBegin s) h
  | sendFrame t p r a => exact hc _ _ rfl (.sendFrame s t p r a) h
  | cmdUnassignedE => cases h
  | cmdUnassignedF => cases h
  | onReadyEdge =>
    change readyEdge s = .next t at h
    unfold readyEdge at h
    split at h
    · cases h
    · split at h
      · exact .interrupted rfl ‹_› h
      · cases h; exact .latched rfl (by simpa using ‹¬s.irqEnabled = true›) rfl
  | frameHeader l t sn a r => exact he (.ok _) h
  | encode t c p => exact he _ h
  | decode b => exact he (.ok _) h
  | filter t => exact he _ h
  | ctlData low => exact he (.ok _) h
  | ctlDataAckreq low => exact he (.ok _) h
  | ctlAck low => exact he (.ok _) h
  | ctlAckAckreq low => exact he (.ok _) h

/-- Everything a step can do where it answers a next state. -/
inductive StepStep (s t : State) : Prop
  | resumed (h : drive (stepBudget s.cfg) s = .next t)
  | entered (h : drive (stepBudget s.boundary.cfg) s.boundary = .next t)
  | waited (h : t = s.boundary)
  | accepted (r : Request) (i : Instr) (rest : List Request)
      (ha : s.activity = .accept r { s.boundary with port := rest }) (hd : decode r = .ok i) (hi : s.boundary.idle = true) (h : exec i { s.boundary with port := rest } = .next t)

theorem step_cases {s t : State} (h : step s = .next t) : StepStep s t := by
  unfold step at h
  split at h
  · cases h
  · rename_i u ha
    have hu : u = s ∨ u = s.boundary := by
      unfold State.activity at ha
      (repeat' split at ha) <;> cases ha <;> simp
    rcases hu with rfl | rfl
    · exact .resumed h
    · exact .entered h
  · rename_i u ha
    cases h
    unfold State.activity at ha
    (repeat' split at ha) <;> cases ha
    exact .waited rfl
  · rename_i r u ha
    split at h
    · rename_i i hd
      have hu : ∃ rest, u = { s.boundary with port := rest } ∧ s.boundary.idle = true := by
        unfold State.activity at ha
        (repeat' split at ha) <;> cases ha
        exact ⟨_, rfl, by simp_all⟩
      obtain ⟨rest, rfl, hi⟩ := hu
      exact .accepted r i rest ha hd hi h
    · cases h

/-- An invariant of ticks that neither the port nor the result touches, and that the launch of an admitted instruction
and the interrupt's entry establish, is kept by that instruction. -/
theorem exec_inv {P : State → Prop} (htick : ∀ s t, P s → tick s = .next t → P t)
    (hhost : ∀ (s : State) (r : Option Result) (q : List Request), P s → P { s with result := r, port := q })
    {i : Instr} {s t : State}
    (hlaunch : ∀ p : List Micro, s.idle = true → Launches i s p →
      P { s with window := s.window && keepsWindow i, foreground := p })
    (hedge : P s.edge ∧ (s.irqEnabled = true → P s.edge.enterInterrupt)) (hs : P s) (h : exec i s = .next t) : P t := by
  cases exec_cases h with
  | launched p hl hi h => exact drive_inv htick _ _ _ (hhost _ none s.port (hlaunch p hi hl)) h
  | evaluated r hi h => exact h ▸ hhost _ (some r) s.port hs
  | latched _ _ h => exact h ▸ hedge.1
  | interrupted _ he h => exact drive_inv htick _ _ _ (hedge.2 he) h

/-- An invariant of boundaries and advances that neither the port nor the result touches, and that every launch of an
instruction the step may accept and the interrupt's entry establish, is an invariant of steps. -/
theorem step_inv {P : State → Prop} (hbound : ∀ s, P s → P s.boundary)
    (hadv : ∀ s t, P s → advance s = .next t → P t)
    (hhost : ∀ (s : State) (r : Option Result) (q : List Request), P s → P { s with result := r, port := q })
    (hedge : ∀ s : State, s.idle = true → P s → P s.edge ∧ (s.irqEnabled = true → P s.edge.enterInterrupt))
    {s t : State}
    (hlaunch : ∀ (r : Request) (i : Instr) (u : State) (p : List Micro), s.activity = .accept r u → decode r = .ok i →
      u.idle = true → P u → Launches i u p → P { u with window := u.window && keepsWindow i, foreground := p })
    (hs : P s) (h : step s = .next t) : P t := by
  have htick : ∀ s t, P s → tick s = .next t → P t := fun s t hs h => hadv _ _ (hbound s hs) h
  cases step_cases h with
  | resumed h => exact drive_inv htick _ _ _ hs h
  | entered h => exact drive_inv htick _ _ _ (hbound s hs) h
  | waited h => exact h ▸ hbound s hs
  | accepted r i rest ha hd hi h =>
    have hp : P { s.boundary with port := rest } := hhost _ s.boundary.result rest (hbound s hs)
    exact exec_inv htick hhost (fun p hi hl => hlaunch r i _ p ha hd hi hp hl)
      (hedge { s.boundary with port := rest } hi hp) hp h

/-! ### A predicate over the positions of a program -/

theorem writes_all {f : Micro → Bool} (h : ∀ a v, f (.regWrite a v) = true) (l : List (Addr × Byte)) :
    (writes l).all f = true := by
  simp [writes, List.all_map, Function.comp_def, h]

theorem fifoFill_all {f : Micro → Bool} (h : ∀ a v, f (.regWrite a v) = true) (c : Cfg) (bytes : List Byte) :
    (fifoFill c bytes).all f = true := by
  simp [fifoFill, List.all_map, Function.comp_def, h]

theorem transition_all {f : Micro → Bool} (h : ∀ a v, f (.regWrite a v) = true) (c : Cfg) (m : RadioMode) :
    (transition c m).all f = (f .enterCritical
      && f (.modify c.regmap.aOpmode (~~~c.regmap.mMode) (c.regmap.vMode m)) && f .exitCritical && f .waitIfSleep
      && f (.storeMode m)) := by
  simp [transition, critical, modifyField, writes_all h, Bool.and_assoc]

theorem sendFrameBody_all {f : Micro → Bool} (h : ∀ a v, f (.regWrite a v) = true) (c : Cfg) (bytes : List Byte) :
    (sendFrameBody c bytes).all f = (f .enterCritical && f .exitCritical && f (.setMode 4) && f .waitLine
      && f (.setMode 1)) := by
  simp [sendFrameBody, critical, fifoFill_all h, Bool.and_assoc]

theorem setEncryptionKey_all {f : Micro → Bool} (h : ∀ a v, f (.regWrite a v) = true)
    (hm : ∀ a k v, f (.modify a k v) = true)
    (c : Cfg) (key : Option (List Byte)) :
    (setEncryptionKey c key).all f = (f (.setMode 1) && f .enterCritical && f .exitCritical) := by
  cases key <;> simp [setEncryptionKey, critical, modifyField, writes_all h, hm, Bool.and_assoc]

end Sys2Proof.Machine
end

