-- ==== Sys2Proof/Tests/Slice0.lean ====
section
/-! SUPPORT. The model's own tests: ill-formed terms, words of the opcode table written out from the spec's encodings,
the vectors of spec 95_test_vectors.md that show one step each, and a witness for the hypotheses of every obligation. -/

namespace Sys2Proof.Tests

open Sys2Proof.Machine

/-! ### Helpers -/

/-- What is read off the next state of an outcome. -/
def after {α : Type} (o : Host.Outcome State Fault Refusal) (f : State → α) : Option α :=
  match o with
  | .next t => some (f t)
  | _ => none

/-- The reason of a refusal. -/
def refusal (o : Host.Outcome State Fault Refusal) : Option Refusal :=
  match o with
  | .refused r => some r
  | _ => none

/-- A node of address 9 in network 100 after INITIALIZE, in Standby. -/
def node : State :=
  { State.reset with initialized := true, localAddress := some 9, networkId := some 100 }

/-- The node in Receive with an empty slot: the vectors' "armed". -/
def listening : State :=
  { node with mode := .receive }

/-- The slot that T-RX-1 leaves. -/
def frameFrom5 : Slot where
  pendingLength := 6
  payloadLength := 3
  targetAddress := 9
  senderAddress := 5
  ackRequest := true
  ackReply := false
  payload := [(0, 1), (1, 2), (2, 3)]
  rssi := -60

/-- The slot of T-AK-1: an acknowledgement from node 9. -/
def ackFrom9 : Slot :=
  { Slot.reset with pendingLength := 3, targetAddress := 5, senderAddress := 9, ackReply := true }

/-- The answers the environment gives to register reads. -/
def answering (s : State) (l : List Byte) : State :=
  { s with env := { s.env with reads := ⟨l, 0⟩ } }

/-- The measurements the environment gives. -/
def hearing (s : State) (l : List Rssi) : State :=
  { s with env := { s.env with rssis := ⟨l, 0⟩ } }

/-- The ready-line levels the environment gives. -/
def lined (s : State) (l : List Bool) : State :=
  { s with env := { s.env with line := ⟨l, 0⟩ } }

/-- The time readings the environment gives. -/
def clocked (s : State) (l : List Millis) : State :=
  { s with env := { s.env with clock := ⟨l, 0⟩ } }

/-- A boundary without an edge, and one where an edge comes and is taken as soon as delivery is on. -/
def quietBoundary : Boundary := ⟨false, true⟩
def edgeBoundary : Boundary := ⟨true, true⟩

/-! ### Ill-formed terms (R76) -/

theorem test_level_32_ill_formed : (Instr.setPowerLevel 32).wellFormed = false := by decide
theorem test_key_of_15_ill_formed : (Instr.setEncryptionKey (some (List.replicate 15 0))).wellFormed = false := by
  decide
theorem test_both_ack_flags_ill_formed : (Instr.sendFrame 5 [] true true).wellFormed = false := by decide

/-! ### Words of the opcode table, written out from R71, R60 and R68 -/

theorem test_word_command : decodeTableWord 8 0b1010 = some (.setMode 0) := by decide
theorem test_word_unassigned : decodeTableWord 8 0b1110 = some .cmdUnassignedE := by decide
theorem test_word_control : decodeTableWord 8 0b10000011 = some (.ctlAck 3) := by decide
theorem test_word_header :
    decodeTableWord 32 0b00000110_00001001_00000101_01000000 = some (.frameHeader 6 9 5 false true) := by decide
theorem test_request_event : decode (.event 1) = .ok .onReadyEdge := by rfl
theorem test_request_send_operands :
    decode (.command 0x4 { target := 9, payload := [1, 2, 3], requestAck := true }) = .ok (.send 9 [1, 2, 3] true) := by
  rfl
theorem test_request_encode : decode (.encode 9 0x40 [1]) = .ok (.encode 9 0x40 [1]) := by rfl

/-- The default map meets the constraints of R52 (G1). -/
theorem test_family_map : Cfg.family.wf = true := by decide

/-- R52: a tuning address that is the FIFO's, and one inside the key block. -/
theorem test_tuning_at_fifo_ill_formed : { Cfg.family with paTuneOn := [(0x00, 0x5D)] }.wf = false := by decide
theorem test_tuning_in_key_block_ill_formed : { Cfg.family with paTuneOff := [(0x4D, 0x55)] }.wf = false := by decide

/-! ### Vectors -/

/-- T-MODE-4: a wait of three status reads out of Sleep. -/
theorem test_set_mode_wakes :
    after (exec (.setMode 1) (answering { node with mode := .sleep } [0x00, 0x00, 0x00, 0x80]))
      (fun t => (t.mode, t.trace)) =
      some (.standby, [rd .fg 0x01 0x00, wr .fg 0x01 0x04, rd .fg 0x27 0x00, rd .fg 0x27 0x00, rd .fg 0x27 0x80]) := by
  decide

/-- T-MODE-6: the tuning writes of boosted hardware. -/
theorem test_set_mode_boosted :
    after (exec (.setMode 4) (answering { listening with cfg := { Cfg.family with boosted := true } } [0x10]))
      (fun t => (t.mode, t.trace)) =
      some (.transmit, [rd .fg 0x01 0x10, wr .fg 0x01 0x0C, wr .fg 0x5A 0x5D, wr .fg 0x5C 0x7C]) := by
  decide

/-- T-ENC-2. -/
theorem test_encode_empty_payload :
    after (exec (.encode 0 0x00 []) { node with localAddress := some 7 }) (fun t => t.result) =
      some (some (.bytes [0x03, 0x00, 0x07, 0x00])) := by decide

/-- T-ENC-4: a payload of 62 bytes loses its last one. -/
theorem test_encode_truncates :
    encodeFrame 2 1 0 (List.replicate 62 7) = 0x40 :: 2 :: 1 :: 0 :: List.replicate 61 7 := by decide

/-- T-DEC-5: bits 5:0 of the control byte are ignored. -/
theorem test_decode_control_low_bits :
    decodeFrame [0x04, 0x01, 0x02, 0xC1, 0xFF] =
      .frame { pendingLength := 4, payloadLength := 1, targetAddress := 1, senderAddress := 2, ackReply := true,
               ackRequest := true, payload := [0xFF] } := by decide

/-- T-DEC-3 and T-DEC-4: lengths 2 and 65. -/
theorem test_decode_bad_lengths :
    (decodeFrame [0x02, 0x09, 0x05], decodeFrame [0x41]) = (.malformed, .oversize) := by decide

/-- T-FLT-2 and T-FLT-3. -/
theorem test_filter_foreign : after (exec (.filter 7) node) (fun t => t.result) = some (some (.bool false)) := by decide
theorem test_filter_broadcast : after (exec (.filter 0) node) (fun t => t.result) = some (some (.bool true)) := by
  decide

/-- R60's example word as a header. -/
theorem test_header_payload_length :
    after (exec (.frameHeader 6 9 5 false true) node) (fun t => t.result) =
      some (some (.header ⟨6, 9, 5, false, true, some 3⟩)) := by decide

/-- R68: the four kinds. -/
theorem test_ctl_data : after (exec (.ctlData 0x3F) node) (fun t => t.result) = some (some (.control false false)) := by
  decide
theorem test_ctl_data_ackreq :
    after (exec (.ctlDataAckreq 0) node) (fun t => t.result) = some (some (.control false true)) := by decide
theorem test_ctl_ack : after (exec (.ctlAck 1) node) (fun t => t.result) = some (some (.control true false)) := by
  decide
theorem test_ctl_ack_ackreq :
    after (exec (.ctlAckAckreq 0) node) (fun t => t.result) = some (some (.control true true)) := by decide

/-- T-RX-1: the accepted frame, its trace and the slot. -/
theorem test_edge_accepts :
    after (exec .onReadyEdge
        (hearing (answering listening [0x04, 0x10, 0x06, 0x09, 0x05, 0x40, 0x01, 0x02, 0x03, 0x04]) [-60]))
      (fun t => (t.mode, t.slot, t.trace.length, t.trace.take 4)) =
      some (.receive, frameFrom5, 12,
        [rd .irq 0x28 0x04, rd .irq 0x01 0x10, wr .irq 0x01 0x04, rd .irq 0x00 0x06]) := by
  decide

/-- T-RX-3: the filtered frame, re-armed. -/
theorem test_edge_filters :
    after (exec .onReadyEdge (answering listening [0x04, 0x10, 0x04, 0x07, 0x04, 0x02, 0x04]))
      (fun t => (t.mode, t.slot.pendingLength, t.trace.drop 3)) =
      some (.receive, 0,
        [rd .irq 0x00 0x04, rd .irq 0x00 0x07, rd .irq 0x28 0x04, rd .irq 0x3D 0x02, wr .irq 0x3D 0x06,
         wr .irq 0x25 0x40, rd .irq 0x01 0x04, wr .irq 0x01 0x10]) := by
  decide

/-- T-RX-11 (b): a stale payload-ready is restarted. -/
theorem test_receive_begin_stale :
    after (exec .receiveBegin (answering node [0x04, 0x03, 0x04])) (fun t => (t.mode, t.trace)) =
      some (.receive,
        [rd .fg 0x28 0x04, rd .fg 0x3D 0x03, wr .fg 0x3D 0x07, wr .fg 0x25 0x40, rd .fg 0x01 0x04,
         wr .fg 0x01 0x10]) := by
  decide

/-- T-RX-11 (c): from Receive no mode transaction. -/
theorem test_receive_begin_in_receive :
    after (exec .receiveBegin (answering listening [0x00])) (fun t => (t.mode, t.trace)) =
      some (.receive, [rd .fg 0x28 0x00, wr .fg 0x25 0x40]) := by
  decide

/-- T-RX-12, the first poll. -/
theorem test_receive_done_found :
    after (exec .receiveDone (answering { listening with slot := frameFrom5 } [0x10]))
      (fun t => (t.mode, t.slot, t.result, t.trace)) =
      some (.standby, frameFrom5, some (.bool true), [rd .fg 0x01 0x10, wr .fg 0x01 0x04]) := by
  decide

/-- T-RX-17: an edge latched inside the critical section is lost to the restart. -/
theorem test_receive_done_loses_frame :
    after (exec .receiveDone (answering { listening with
        env := { listening.env with boundaries := [quietBoundary, edgeBoundary] } } [0x04, 0x02, 0x00]))
      (fun t => (t.mode, t.slot, t.irqPending, t.result, t.trace)) =
      some (.receive, Slot.reset, false, some (.bool false),
        [rd .fg 0x28 0x04, rd .fg 0x3D 0x02, wr .fg 0x3D 0x06, wr .fg 0x25 0x40, rd .irq 0x28 0x00]) := by
  decide

/-- T-CS-3: equal is not below. -/
theorem test_can_send_equal :
    after (exec .canSend (hearing listening [-90])) (fun t => (t.mode, t.result, t.trace)) =
      some (.receive, some (.bool false), []) := by
  decide

/-- T-CS-16: an edge between the end of the critical section and the store of the mode. -/
theorem test_can_send_race :
    after (exec .canSend (hearing (answering { listening with
          env := { listening.env with boundaries := List.replicate 8 quietBoundary ++ [edgeBoundary] } }
          [0x10, 0x04, 0x04, 0x06, 0x09, 0x05, 0x40, 0x01, 0x02, 0x03, 0x04]) [-97, -60]))
      (fun t => (t.mode, t.slot, t.result, t.trace.take 5)) =
      some (.standby, frameFrom5, some (.bool true),
        [rd .fg 0x01 0x10, wr .fg 0x01 0x04, rd .irq 0x28 0x04, rd .irq 0x01 0x04, wr .irq 0x01 0x04]) := by
  decide

/-- T-TX-1. -/
theorem test_send :
    after (exec (.send 9 [1, 2, 3] true)
        (lined (answering { node with localAddress := some 5 } [0x02, 0x04, 0x0C]) [true]))
      (fun t => (t.mode, t.trace)) =
      some (.standby,
        [rd .fg 0x3D 0x02, wr .fg 0x3D 0x06, wr .fg 0x25 0x00, wr .fg 0x00 0x06, wr .fg 0x00 0x09, wr .fg 0x00 0x05,
         wr .fg 0x00 0x40, wr .fg 0x00 0x01, wr .fg 0x00 0x02, wr .fg 0x00 0x03, rd .fg 0x01 0x04, wr .fg 0x01 0x0C,
         rd .fg 0x01 0x0C, wr .fg 0x01 0x04]) := by
  decide

/-- T-TX-8: a pending frame is taken by the spin loop and not reported. -/
theorem test_send_over_pending_frame :
    after (exec (.send 9 [] false)
        (lined (answering { listening with slot := frameFrom5 } [0x02, 0x10, 0x04, 0x0C]) [true]))
      (fun t => (t.mode, t.slot, t.result, t.window)) =
      some (.standby, frameFrom5, some .unit, false) := by
  decide

/-- T-TX-6: SEND_FRAME from Receive, no gate. -/
theorem test_send_frame :
    after (exec (.sendFrame 5 [0xAB] false false)
        (lined (answering listening [0x10, 0x04, 0x0C]) [false, true])) (fun t => (t.mode, t.trace)) =
      some (.standby,
        [rd .fg 0x01 0x10, wr .fg 0x01 0x04, wr .fg 0x25 0x00, wr .fg 0x00 0x04, wr .fg 0x00 0x05, wr .fg 0x00 0x09,
         wr .fg 0x00 0x00, wr .fg 0x00 0xAB, rd .fg 0x01 0x04, wr .fg 0x01 0x0C, rd .fg 0x01 0x0C,
         wr .fg 0x01 0x04]) := by
  decide

/-- T-TX-5. -/
theorem test_send_frame_refused : refusal (exec (.sendFrame 5 [] true true) node) = some .bothAckFlags := by decide

/-- T-TX-9: the FIFO bytes of an acknowledgement, the slot intact. -/
theorem test_send_ack :
    after (exec (.sendAck []) (lined (answering { node with slot := frameFrom5 } [0x04, 0x0C]) [true]))
      (fun t => (t.slot, t.trace.take 5)) =
      some (frameFrom5,
        [wr .fg 0x25 0x00, wr .fg 0x00 0x03, wr .fg 0x00 0x05, wr .fg 0x00 0x09, wr .fg 0x00 0x80]) := by
  decide

/-- T-AK-1 and T-AK-4. -/
theorem test_ack_received :
    after (exec (.ackReceived 9) (answering { listening with slot := ackFrom9 } [0x10])) (fun t => (t.mode, t.result)) =
      some (.standby, some (.bool true)) := by
  decide
theorem test_ack_received_data_frame :
    after (exec (.ackReceived 5) (answering { listening with slot := frameFrom5 } [0x10]))
      (fun t => (t.mode, t.result)) = some (.standby, some (.bool false)) := by
  decide

/-- P5: two attempts, no answer. -/
theorem test_retry_exhausts :
    after (exec (.sendWithRetry 9 [7] 1 0)
        (clocked (lined (answering { node with localAddress := some 5 } [0x02, 0x04, 0x0C, 0x02, 0x04, 0x0C])
          [true, true]) [500, 500, 501, 501]))
      (fun t => (t.mode, t.result, t.trace.length, t.env.clock.taken)) =
      some (.standby, some (.bool false), 24, 4) := by
  decide

/-- P5b: two polls that find nothing, then a second attempt with the gate in Receive. -/
def unanswered : State :=
  hearing (clocked (lined (answering { node with localAddress := some 5 }
    [0x02, 0x04, 0x0C, 0x00, 0x04, 0x00, 0x02, 0x10, 0x04, 0x0C]) [true, true])
    [1000, 1005, 1012, 1021, 1030, 1051]) [-100]
theorem test_retry_polls_and_fails :
    after (exec (.sendWithRetry 9 [7] 1 20) unanswered)
      (fun t => (t.mode, t.result, t.trace.length, t.env.clock.taken, t.trace.drop 12 |>.take 8)) =
      some (.standby, some (.bool false), 32, 6,
        [rd .fg 0x28 0x00, wr .fg 0x25 0x40, rd .fg 0x01 0x04, wr .fg 0x01 0x10, rd .fg 0x28 0x00, wr .fg 0x25 0x40,
         rd .fg 0x3D 0x02, wr .fg 0x3D 0x06]) := by
  decide

/-- A node that sends with one attempt and a timeout of 50 and whose interrupt, between the first poll and the second
window test, accepts an empty acknowledgement from a given sender. -/
def answeredBy (sender : Byte) (times : List Millis) : State :=
  hearing (clocked (lined (answering { node with
      localAddress := some 5,
      env := { node.env with boundaries := List.replicate 58 quietBoundary ++ [edgeBoundary] } }
    [0x02, 0x04, 0x0C, 0x00, 0x04, 0x04, 0x10, 0x03, 0x05, sender, 0x80, 0x04, 0x10]) [true]) times) [-58]

/-- T-RT-4: the acknowledgement arrives while the window is open; the handler comes in at the second window test. -/
theorem test_retry_succeeds :
    after (exec (.sendWithRetry 9 [7] 2 50) (answeredBy 9 [1000, 1003, 1010]))
      (fun t => (t.mode, t.result, t.slot.senderAddress, t.env.clock.taken)) =
      some (.standby, some (.bool true), 9, 3) := by
  decide

/-- T-RT-5 with one attempt: the poll consumes the wrong sender's acknowledgement, and the host does not see it
(R144). -/
theorem test_retry_hides_wrong_sender :
    after (exec (.sendWithRetry 9 [7] 0 50) (answeredBy 8 [1000, 1003, 1010, 1051]))
      (fun t => (t.mode, t.result, t.slot.senderAddress, t.env.clock.taken, t.hostSlot)) =
      some (.standby, some (.bool false), 8, 4, none) := by
  decide

/-- T-CF-2 and T-CF-14. -/
theorem test_initialize :
    after (exec (.initBlock 0 5 100) { State.reset with env := { Environment.fresh with blob := ⟨[true], 0⟩ } })
      (fun t => (t.initialized, t.localAddress, t.networkId, t.mode, t.result)) =
      some (true, some 5, some 100, .standby, some (.bool true)) := by
  decide
theorem test_initialize_again :
    after (exec (.initBlock 0 6 1) (answering { listening with
        slot := frameFrom5, env := { listening.env with blob := ⟨[false], 0⟩ } } [0x10]))
      (fun t => (t.initialized, t.localAddress, t.slot.senderAddress, t.trace)) =
      some (true, some 6, 0, [rd .fg 0x01 0x10, wr .fg 0x01 0x04]) := by
  decide

/-- R130, R146, R18: the interrupt may cut into a second INITIALIZE's clearing; the fields not yet cleared are then those
of the new frame and are cleared, and the lengths of the new frame agree. -/
theorem test_initialize_interrupted :
    after (exec (.initBlock 0 6 1) (hearing (answering { listening with
        slot := frameFrom5
        env := { listening.env with
          blob := ⟨[true], 0⟩, boundaries := List.replicate 5 quietBoundary ++ [edgeBoundary] } }
        [0x04, 0x10, 0x04, 0x06, 0x08, 0x00, 0xAA, 0x04, 0x10]) [-58]))
      (fun t => (t.mode, t.slot.pendingLength, t.slot.payloadLength, t.slot.senderAddress, t.slot.payloadByte 0)) =
      some (.standby, 4, 1, 0, some 0xAA) := by
  decide

/-- T-CF-4. -/
theorem test_set_address :
    after (exec (.setAddress 7) node) (fun t => (t.localAddress, t.trace)) = some (some 7, []) := by
  decide

/-- T-CF-5 and T-CF-7. -/
theorem test_set_power_level :
    after (exec (.setPowerLevel 31) (answering node [0x80])) (fun t => (t.powerLevel, t.trace)) =
      some (some 31, [rd .fg 0x11 0x80, wr .fg 0x11 0x9F]) := by
  decide
theorem test_set_power_level_refused : refusal (exec (.setPowerLevel 32) node) = some .powerLevelRange := by decide

/-- T-CF-8. -/
theorem test_promiscuous : after (exec (.promiscuous true) node) (fun t => t.promiscuous) = some true := by decide

/-- T-CF-9, the first and the last two of its eighteen transactions. -/
theorem test_set_key :
    after (exec (.setEncryptionKey (some [0, 1, 2, 3, 4, 5, 6, 7, 8, 9, 10, 11, 12, 13, 14, 15]))
        (answering node [0x02]))
      (fun t => (t.trace.length, t.trace.take 2, t.trace.drop 15)) =
      some (18, [wr .fg 0x3E 0x00, wr .fg 0x3F 0x01], [wr .fg 0x4D 0x0F, rd .fg 0x3D 0x02, wr .fg 0x3D 0x03]) := by
  decide

/-- T-CF-12. -/
theorem test_clear_key :
    after (exec (.setEncryptionKey none) (answering listening [0x10, 0x03])) (fun t => (t.mode, t.trace)) =
      some (.standby, [rd .fg 0x01 0x10, wr .fg 0x01 0x04, rd .fg 0x3D 0x03, wr .fg 0x3D 0x02]) := by
  decide

/-- T-CF-13 and T-CF-1. -/
theorem test_unassigned :
    (refusal (exec .cmdUnassignedE node), refusal (exec .cmdUnassignedF node)) =
      (some (.unassignedOpcode 0xE), some (.unassignedOpcode 0xF)) := by decide
theorem test_refused_at_reset : refusal (step (State.reset.withFetchWord 8 0x6)) = some .notInitialized := by decide

/-- INITIALIZE is what runs first from reset (R76). -/
theorem test_first_command :
    after (step (State.reset.withFetchWord 8 0x0)) (fun t => t.initialized) = some true := by decide

/-- R173: a run has not ended while a command is presented. -/
theorem test_run_ended : node.runEnded ∧ ¬ { node with port := [.command 0x6 {}] }.runEnded := by decide

/-! ### Witnesses: states and operands that meet the hypotheses of the obligations, clause by clause -/

/-- A node whose foreground waits for mode-ready. -/
def waking : State :=
  { node with mode := .sleep, foreground := [.waitModeReady, .storeMode .standby, .finish false] }

/-- A node about to meet an edge at its next boundary. -/
def edged (s : State) : State :=
  { s with env := { s.env with boundaries := [edgeBoundary] } }

/-- A node whose interrupt context runs while the foreground waits. -/
def handling : State :=
  { waking with mode := .receive, irqEnabled := false, handler := [.edgeStatus, .irqReturn] }

/-- A node between `EnterCritical` and `ExitCritical`. -/
def inSection : State :=
  { node with irqEnabled := false, saved := [true], foreground := [.regWrite 0x3D 0x06, .exitCritical, .finish false] }

theorem witness_StepRunsDecodedInstruction_resumes : waking.faulted = false ∧ waking.idle = false := by decide
theorem witness_StepRunsDecodedInstruction_enters :
    (edged listening).faulted = false ∧ (edged listening).idle = true ∧ (edged listening).boundary.idle = false := by
  decide
theorem witness_StepRunsDecodedInstruction_waits :
    node.faulted = false ∧ node.idle = true ∧ node.boundary.idle = true ∧ node.boundary.port = [] := by decide
theorem witness_StepRunsDecodedInstruction_runs :
    let s := { node with port := [.command 0x6 {}] }
    s.faulted = false ∧ s.idle = true ∧ s.boundary.idle = true ∧ s.boundary.port = .command 0x6 {} :: []
      ∧ decode (.command 0x6 {}) = .ok .receiveDone := by
  exact ⟨rfl, rfl, rfl, rfl, rfl⟩
theorem witness_StepRunsDecodedInstruction_rejects :
    let s := { node with port := [.event 0] }
    s.faulted = false ∧ s.idle = true ∧ s.boundary.idle = true ∧ s.boundary.port = .event 0 :: []
      ∧ decode (.event 0) = .error .noInterruptRequest := by
  exact ⟨rfl, rfl, rfl, rfl, rfl⟩
theorem witness_TableWordRunsNext :
    waking.faulted = false ∧ decodeTableWord 8 0xC1 = some (.ctlAckAckreq 1) := by decide
theorem witness_FaultedStateHasNoMeaning :
    ({ listening with faulted := true } : State).faulted = true ∧ Instr.receiveDone ≠ .cmdUnassignedE
      ∧ Instr.receiveDone ≠ .cmdUnassignedF := by decide
theorem witness_InstructionRoundTrip :
    (Instr.setPowerLevel 31).wellFormed = true
      ∧ (Instr.setEncryptionKey (some (List.replicate 16 0xFF))).wellFormed = true
      ∧ (Instr.sendFrame 0xFF [0xFF] false true).wellFormed = true ∧ (Instr.setMode 7).wellFormed = true := by
  decide
theorem witness_DecodeFrameCases :
    (2 : Byte).toNat < 3 ∧ 64 < (65 : Byte).toNat ∧ 3 ≤ (3 : Byte).toNat ∧ (3 : Byte).toNat ≤ 64
      ∧ (3 : Byte).toNat - 3 ≤ ([] : List Byte).length ∧ 3 ≤ (64 : Byte).toNat ∧ (64 : Byte).toNat ≤ 64
      ∧ (64 : Byte).toNat - 3 ≤ (List.replicate 61 (0 : Byte)).length := by
  decide
theorem witness_FrameRoundTrip : (List.replicate 61 (0xFF : Byte)).length ≤ 61 ∧ ([] : List Byte).length ≤ 61 := by
  decide
theorem witness_EncodeAnswers : node.faulted = false ∧ node.idle = true ∧ node.localAddress = some 9 := by decide
theorem witness_DecodeAnswers : node.faulted = false ∧ node.idle = true := by decide
theorem witness_FilterAnswers_promiscuous :
    let s := { node with promiscuous := true }
    s.faulted = false ∧ s.idle = true ∧ s.promiscuous = true := by decide
theorem witness_FilterAnswers_address :
    node.faulted = false ∧ node.idle = true ∧ node.promiscuous = false ∧ node.localAddress = some 9 := by decide
theorem witness_FrameHeaderAnswers : listening.faulted = false ∧ listening.idle = true := by decide
theorem witness_ControlKindsAnswer : State.reset.faulted = false ∧ State.reset.idle = true := by decide
theorem witness_CommandsRefused_before_initialize :
    State.reset.faulted = false ∧ State.reset.idle = true ∧ needsInit .canSend = true
      ∧ State.reset.initialized = false := by decide
theorem witness_CommandsRefused_operands :
    node.faulted = false ∧ node.idle = true ∧ node.initialized = true ∧ 31 < (32 : Byte).toNat
      ∧ (List.replicate 15 (0 : Byte)).length ≠ 16 ∧ (List.replicate 17 (0 : Byte)).length ≠ 16 := by decide
theorem witness_OneCommandInFlight :
    waking.faulted = false ∧ waking.idle = false ∧ Instr.canSend ≠ .onReadyEdge ∧ Instr.canSend ≠ .cmdUnassignedE
      ∧ Instr.canSend ≠ .cmdUnassignedF := by decide
theorem witness_InitializeSetsIdentity_reset : State.reset.accepting ∧ State.reset.wakes State.reset.mode 1 0 := by
  decide
theorem witness_InitializeSetsIdentity_asleep :
    let s := answering { node with mode := .sleep } [0x00, 0x00, 0x80]
    s.accepting ∧ s.wakes s.mode 1 1 := by decide
theorem witness_SetAddressWritesIdentity : node.ready := by decide
theorem witness_PromiscuousWritesFlag : listening.ready := by decide
theorem witness_SetPowerLevelWritesField : node.ready ∧ (31 : Byte).toNat ≤ 31 ∧ 31 < (32 : Byte).toNat := by decide
theorem witness_SetEncryptionKeyLoadsKey :
    let s := answering { node with mode := .sleep } [0x00, 0x80]
    s.ready ∧ s.wakes s.mode 1 0 ∧ (List.replicate 16 (0 : Byte)).length = 16
      ∧ (List.replicate 17 (0 : Byte)).length ≠ 16 := by decide
theorem witness_SetModeMakesTheTransition :
    let s := answering { node with mode := .sleep } [0x00, 0x00, 0x00, 0x80]
    s.ready ∧ (s.mode ≠ .standby → s.wakes s.mode 1 2) ∧ s.mode ≠ .standby := by decide
theorem witness_SetModeMakesTheTransition_self : node.ready ∧ (node.mode ≠ .standby → node.wakes node.mode 1 0) := by
  decide
theorem witness_UnrecognizedModeIsNoOp : 5 ≤ (5 : BitVec 3).toNat ∧ 5 ≤ (7 : BitVec 3).toNat ∧ listening.ready := by
  decide
theorem witness_ModeReadyWaitHasNoTimeout :
    let s := answering { node with mode := .sleep } [0x00, 0x7F]
    s.faulted = false ∧ s.quiet ∧ s.handler = [] ∧ ∀ k < 2, s.readAt k &&& s.cfg.regmap.bModeReady = 0 := by decide
theorem witness_ReceiveBeginArms :
    let s := answering { node with mode := .sleep } [0x04, 0x03, 0x00, 0x00, 0x80]
    s.ready ∧ s.wakes s.mode (s.rearmStatusReads 0 + 1) 1 := by decide
theorem witness_ReceiveDonePolls_found :
    let s := { listening with slot := frameFrom5 }
    s.ready ∧ s.mode = .receive ∧ s.slot.pendingLength ≠ 0 := by decide
theorem witness_ReceiveDonePolls_rearms :
    let s := answering { node with mode := .sleep, slot := frameFrom5 } [0x00, 0x00, 0x80]
    s.ready ∧ ¬(s.mode = .receive ∧ s.slot.pendingLength ≠ 0) ∧ s.wakes s.mode (s.rearmStatusReads 0 + 1) 0 := by
  decide
theorem witness_HostReadsInWindow_found :
    let s := { listening with slot := frameFrom5 }
    s.ready ∧ s.mode = .receive ∧ s.slot.pendingLength ≠ 0 := by decide
theorem witness_HostReadsInWindow_empty :
    listening.ready ∧ listening.mode = .receive ∧ listening.slot.pendingLength = 0 := by decide

/-- A node whose ACK_RECEIVED has found a frame, with the window open, while a late edge runs into the mode guard. -/
def reading : State :=
  { node with
    slot := frameFrom5, window := true, flag := true, foreground := [.ackSender 9, .finish true],
    irqEnabled := false, handler := [.edgeGuard, .irqReturn] }

theorem witness_HostReadsInWindow_kept :
    reading.windowInv ∧ after (step reading) (fun t => (t.window, t.slot, t.result)) =
      some (true, frameFrom5, some (.bool false)) := by decide
theorem witness_HostReadsInWindow_kept_over_send :
    let s := lined { node with slot := frameFrom5, window := true, port := [.command 0x4 {}] } [true]
    s.windowInv ∧ after (step s) (fun t => (t.window, t.slot)) = some (true, frameFrom5) := by decide
theorem witness_HostReadsInWindow_stable :
    reading.windowInv ∧ reading.window = true ∧ after (tick reading) (fun t => t.window) = some true := by decide
theorem witness_EdgeGuardsHoldBack_mode : node.accepting ∧ node.irqEnabled = true ∧ node.mode ≠ .receive := by decide
theorem witness_EdgeGuardsHoldBack_status :
    let s := answering listening [0xFB]
    s.accepting ∧ s.irqEnabled = true ∧ s.mode = .receive ∧ s.readAt 0 &&& s.cfg.regmap.bPayloadReady = 0 := by decide

/-- A listening node that an edge finds with payload-ready set and a given frame in the FIFO. -/
def incoming (frame : List Byte) : State :=
  answering listening (0x04 :: 0x10 :: frame)

theorem witness_EdgeAcceptsFrame_shortest :
    let s := incoming [0x03, 0x09, 0x05, 0x00, 0x04]
    s.accepting ∧ s.irqEnabled = true ∧ s.mode = .receive ∧ s.readAt 0 &&& s.cfg.regmap.bPayloadReady ≠ 0
      ∧ 3 ≤ (s.readAt 2).toNat ∧ (s.readAt 2).toNat ≤ 64
      ∧ (s.promiscuous = true ∨ s.localAddress = some (s.readAt 3) ∨ s.localAddress ≠ none ∧ s.readAt 3 = 0) := by
  decide
theorem witness_EdgeAcceptsFrame_longest_broadcast :
    let s := incoming (0x40 :: 0x00 :: 0x05 :: 0x00 :: List.replicate 61 0xAA)
    s.accepting ∧ s.irqEnabled = true ∧ s.mode = .receive ∧ s.readAt 0 &&& s.cfg.regmap.bPayloadReady ≠ 0
      ∧ 3 ≤ (s.readAt 2).toNat ∧ (s.readAt 2).toNat ≤ 64
      ∧ (s.promiscuous = true ∨ s.localAddress = some (s.readAt 3) ∨ s.localAddress ≠ none ∧ s.readAt 3 = 0) := by
  decide
theorem witness_EdgeDropsMalformed :
    let s := incoming [0x02]
    s.accepting ∧ s.irqEnabled = true ∧ s.mode = .receive ∧ s.readAt 0 &&& s.cfg.regmap.bPayloadReady ≠ 0
      ∧ (s.readAt 2).toNat < 3 := by decide
theorem witness_EdgeDropsFiltered :
    let s := incoming [0x03, 0x07]
    s.accepting ∧ s.irqEnabled = true ∧ s.mode = .receive ∧ s.readAt 0 &&& s.cfg.regmap.bPayloadReady ≠ 0
      ∧ 3 ≤ (s.readAt 2).toNat ∧ (s.readAt 2).toNat ≤ 64 ∧ s.promiscuous = false ∧ s.localAddress = some 9
      ∧ s.readAt 3 ≠ 9 ∧ s.readAt 3 ≠ 0 := by decide
theorem witness_EdgeFaultsOnOversize :
    let s := incoming [0x41]
    s.accepting ∧ s.irqEnabled = true ∧ s.mode = .receive ∧ s.readAt 0 &&& s.cfg.regmap.bPayloadReady ≠ 0
      ∧ 64 < (s.readAt 2).toNat := by decide
theorem witness_CanSendFollowsTheTable_standby : node.ready ∧ node.mode = .standby := by decide
theorem witness_CanSendFollowsTheTable_clear :
    let s := hearing listening [-91]
    s.ready ∧ s.mode = .receive ∧ s.slot.pendingLength = 0 ∧ s.rssiAnswer.toInt < s.cfg.csmaLimit.toInt := by decide
theorem witness_CanSendFollowsTheTable_busy :
    let s := hearing listening [-90]
    s.ready ∧ s.mode = .receive ∧ s.slot.pendingLength = 0 ∧ s.cfg.csmaLimit.toInt ≤ s.rssiAnswer.toInt := by decide
theorem witness_CanSendFollowsTheTable_pending :
    let s := { listening with slot := frameFrom5 }
    s.ready ∧ s.mode = .receive ∧ s.slot.pendingLength ≠ 0 := by decide
theorem witness_CanSendFollowsTheTable_other :
    let s := { node with mode := .transmit }
    s.ready ∧ (s.mode = .transmit ∨ s.mode = .sleep ∨ s.mode = .frequencySynthesis) := by decide
theorem witness_CanSendInStandbyAndTransmit_standby :
    let s := edged node
    s.faulted = false ∧ s.idle = true ∧ s.initialized = true ∧ s.mode = .standby
      ∧ after (exec .canSend s) (fun t => t.idle) = some true := by decide
theorem witness_CanSendInStandbyAndTransmit_transmit :
    let s := edged { node with mode := .transmit }
    s.faulted = false ∧ s.idle = true ∧ s.initialized = true ∧ s.mode = .transmit
      ∧ after (exec .canSend s) (fun t => t.idle) = some true := by decide
theorem witness_SpinRoundReArms_busy :
    let s := hearing listening [-90]
    s.faulted = false ∧ s.quiet ∧ s.handler = [] ∧ s.mode = .receive ∧ s.slot.pendingLength = 0
      ∧ s.cfg.csmaLimit.toInt ≤ s.rssiAnswer.toInt := by decide
theorem witness_SpinRoundReArms_asleep :
    let s := answering { node with mode := .sleep } [0x00, 0x00, 0x80]
    s.faulted = false ∧ s.quiet ∧ s.handler = [] ∧ (s.mode = .sleep ∨ s.mode = .frequencySynthesis ∨ s.mode = .transmit)
      ∧ s.wakes s.mode (s.rearmStatusReads 0 + 1) 0 := by decide
theorem witness_SendFrameTransmits_sends :
    let s := lined (answering { node with mode := .sleep } [0x00, 0x80]) [false, true]
    s.ready ∧ ¬(true = true ∧ false = true) ∧ s.localAddress = some 9 ∧ s.wakes s.mode 1 0 ∧ s.completes 0 1 := by
  decide
theorem witness_SendFrameTransmits_refused : node.ready ∧ true = true := by decide
theorem witness_TransmitWaitHasNoTimeout :
    let s := lined { node with mode := .transmit } [false, false, false]
    s.faulted = false ∧ s.quiet ∧ s.handler = [] ∧ ∀ k < 3, s.lineAt k = false := by decide
theorem witness_SendTransmitsWhenGranted_standby :
    let s := lined node [true]
    s.ready ∧ s.localAddress = some 9 ∧ s.grants ∧ s.completes 0 0 := by decide
theorem witness_SendTransmitsWhenGranted_clear :
    let s := lined (hearing listening [-91]) [false, true]
    s.ready ∧ s.localAddress = some 9 ∧ s.grants ∧ s.completes 0 1 := by decide
theorem witness_SendAckRepliesToSender :
    let s := lined { listening with slot := frameFrom5 } [true]
    s.ready ∧ s.localAddress = some 9 ∧ s.grants ∧ s.completes 0 0 := by decide
theorem witness_SendAckRepliesToSender_captures :
    let s := { listening with slot := frameFrom5 }
    s.faulted = false ∧ s.quiet ∧ s.handler = [] := by decide
theorem witness_AckReceivedMatches_found :
    let s := { listening with slot := ackFrom9 }
    s.ready ∧ s.mode = .receive ∧ s.slot.pendingLength ≠ 0 := by decide
theorem witness_AckReceivedMatches_empty :
    let s := answering { node with mode := .sleep } [0x00, 0x00, 0x80]
    s.ready ∧ ¬(s.mode = .receive ∧ s.slot.pendingLength ≠ 0) ∧ s.wakes s.mode (s.rearmStatusReads 0 + 1) 0 := by
  decide
theorem witness_RetryExhaustsItsAttempts_fewest :
    let s := lined node [true]
    s.ready ∧ s.mode = .standby ∧ s.localAddress = some 9 ∧ ∀ k ≤ (0 : Byte).toNat, s.lineAt k = true := by decide
theorem witness_RetryExhaustsItsAttempts_most :
    let s := lined node (List.replicate 256 true)
    s.ready ∧ s.mode = .standby ∧ s.localAddress = some 9 ∧ ∀ k ≤ (255 : Byte).toNat, s.lineAt k = true := by
  refine ⟨by decide, rfl, rfl, fun k hk => ?_⟩
  rw [State.lineAt, Source.answerAt_eq]
  change ((List.replicate 256 true)[k]?).getD _ = true
  rw [List.getElem?_replicate, if_pos (show k < 256 from Nat.lt_succ_of_le hk), Option.getD_some]
theorem witness_RetryExhaustsItsAttempts_polls :
    unanswered.ready ∧ unanswered.localAddress = some 5 ∧ [2, 0].length = (1 : Byte).toNat + 1
      ∧ [2, 0].sum ≤ retryPollBound ∧ unanswered.closeWindow.attemptsFail (encodeFrame 9 5 0x40 [7]) 20 [2, 0] := by
  refine ⟨by decide, rfl, rfl, by decide, ?_⟩
  exact And.intro (by decide) (And.intro (by decide) (And.intro (by decide)
    (And.intro (by decide) (And.intro (by decide) (And.intro (by decide) trivial)))))
theorem witness_RetryExhaustsItsAttempts_window :
    after (exec (.sendWithRetry 9 [7] 2 50) (answeredBy 9 [1000, 1003, 1010])) (fun u => (u.idle, u.window)) =
      some (true, true) := by
  decide
theorem witness_RetrySucceedsOnMatch :
    let s := clocked { listening with slot := ackFrom9 } [4]
    let r : RetrySession := ⟨1, 11, 9, [7]⟩
    s.faulted = false ∧ s.quiet ∧ s.handler = [] ∧ s.mode = .receive ∧ s.slot.pendingLength ≠ 0
      ∧ (s.slot.senderAddress = r.targetAddress ∨ r.targetAddress = 0) ∧ s.slot.ackReply = true
      ∧ (s.nowAnswer - 4294967290).toNat < r.perAttemptTimeout.toNat := by decide

/-- A node whose first attempt runs out at once and whose second is answered as in T-RT-4. -/
def answeredSecond : State :=
  hearing (clocked (lined (answering { node with
      localAddress := some 5,
      env := { node.env with boundaries := List.replicate 90 quietBoundary ++ [edgeBoundary] } }
    [0x02, 0x04, 0x0C, 0x02, 0x04, 0x0C, 0x00, 0x04, 0x04, 0x10, 0x03, 0x05, 0x09, 0x80, 0x04, 0x10]) [true, true])
    [900, 950, 1000, 1003, 1010]) [-58]

theorem witness_RetrySucceedsOnMatch_later_attempt :
    let r : RetrySession := ⟨2, 50, 9, [7]⟩
    answeredSecond.faulted = false ∧ answeredSecond.idle = true ∧ answeredSecond.initialized = true
      ∧ 2 * 116 ≤ stepBudget answeredSecond.cfg
      ∧ after
        (drive 116 { answeredSecond with
          window := false, foreground := [.retryLoop ⟨attemptsOf 2, 50, 9, [7]⟩, .finish true], result := none })
        (fun s => decide (s.faulted = false ∧ s.quiet ∧ s.handler = [] ∧ s.mode = .receive ∧ s.slot.pendingLength ≠ 0
          ∧ s.slot.senderAddress = 9 ∧ s.slot.ackReply = true ∧ (s.nowAnswer - 1000).toNat < 50
          ∧ s.foreground = [.windowTest r 1000, .finish true])) = some true := by
  decide +kernel
theorem witness_MaskedEdgeIsLatched : inSection.faulted = false ∧ inSection.irqEnabled = false := by decide
theorem witness_InterruptEntryAndReturn_taken :
    let s := edged listening
    s.env.boundaries = edgeBoundary :: [] ∧ edgeBoundary.take = true ∧ s.irqEnabled = true
      ∧ (s.irqPending = true ∨ edgeBoundary.edge = true) := by decide
theorem witness_InterruptEntryAndReturn_left :
    let s := edged inSection
    s.env.boundaries = edgeBoundary :: [] ∧ (edgeBoundary.take = false ∨ s.irqEnabled = false
      ∨ s.irqPending = false ∧ edgeBoundary.edge = false) := by decide
theorem witness_CriticalSectionRestores : node.enterCritical.saved = node.enterCritical.saved := rfl
theorem witness_ForegroundWaitsForHandler : handling.handler ≠ [] ∧ ∃ t, tick handling = .next t :=
  ⟨by decide, _, rfl⟩
theorem witness_ModeWrittenOnlyBySetMode :
    runMicro .fg (.storeMode .receive) node = .next { node with mode := .receive } ∧ RadioMode.receive ≠ node.mode :=
  ⟨rfl, by decide⟩
theorem witness_SlotWrittenByOwners :
    let s := { listening with slot := frameFrom5 }
    runMicro .fg (.clearField .senderAddress) s = .next { s with slot := { frameFrom5 with senderAddress := 0 } }
      ∧ (Micro.clearField .senderAddress).drains = false ∧ { frameFrom5 with senderAddress := 0 } ≠ frameFrom5 :=
  ⟨rfl, by decide, by decide⟩
theorem witness_ForegroundHoldsNoDrain :
    let s := answering waking [0x80]
    s.foreground.all (fun m => !m.drains) = true ∧ (after (step s) (fun t => t.mode)) = some .standby := by decide
theorem witness_SlotInvariantKept :
    let s := edged (hearing (incoming [0x04, 0x09, 0x08, 0x00, 0xAA, 0x04]) [-55])
    s.slotInv ∧ after (step s) (fun t => t.slot.payload) = some [(0, 0xAA)] := by decide
theorem witness_SlotInvariantKept_in_drain :
    let s := { answering handling [0xAA, 0x00] with
      mode := .standby, handler := [.popPayload 0, .storeFrame 4 9 8 0, .setMode 3, .sampleRssi, .irqReturn] }
    s.slotInv
      ∧ after (drive 2 s) (fun t => (t.slot.payloadLength, t.slot.payload)) = some (1, [(0, 0xAA)]) := by decide
theorem witness_SlotInvariantKept_in_clearing :
    let s := { edged (hearing (incoming [0x04, 0x09, 0x08, 0x00, 0xAA, 0x04]) [-55]) with
      slot := { frameFrom5 with pendingLength := 0, payloadLength := 0 }
      foreground := [.clearField .targetAddress, .finish true] }
    s.slotInv ∧ after (step s) (fun t => (t.slot.pendingLength, t.slot.payloadLength, t.slot.targetAddress)) =
      some (4, 1, 0) := by decide
theorem witness_CriticalDisciplineKept_clears :
    let s := { inSection with foreground := [.clearField .lengths, .exitCritical, .finish true] }
    s.disciplined ∧ s.clearsInside
      ∧ (∀ r u band nodeId networkId, s.activity = .accept r u → decode r ≠ .ok (.initBlock band nodeId networkId))
      ∧ after (step s) (fun t => (t.slot.pending, t.irqEnabled)) = some (false, true) :=
  ⟨by decide, by decide, fun r u _ _ _ h => Activity.noConfusion (show Activity.resume _ = .accept r u from h), by decide⟩
theorem witness_CriticalDisciplineKept :
    inSection.disciplined ∧ after (step inSection) (fun t => t.irqEnabled) = some true := by decide
theorem witness_CriticalDisciplineKept_handler :
    let s := answering { handling with mode := .receive } [0x00, 0x80]
    s.disciplined ∧ after (step s) (fun t => (t.irqEnabled, t.mode)) = some (true, .standby) := by decide
theorem witness_CriticalDisciplineKept_idle : node.disciplined ∧ node.idle = true := by decide
theorem witness_HandlerIsNotReentered_running :
    handling.disciplined ∧ handling.handler ≠ [] ∧ handling.faulted = false
      ∧ after (tick (answering handling [0x04])) (fun t => t.handler.isEmpty) = some false := by decide
theorem witness_HandlerIsNotReentered_faults :
    let s := { handling with mode := .standby, handler := [.raiseOversize, .irqReturn] }
    s.disciplined ∧ s.handler = .raiseOversize :: [.irqReturn] := by decide
theorem witness_HistoryOnlyGrows : after (step inSection) (fun t => t.trace) = some [wr .fg 0x3D 0x06] := by decide
theorem witness_UnreadFieldsPlayNoPart :
    ({ listening with slot := frameFrom5, networkId := some 1 } : State).readable =
      ({ listening with slot := { frameFrom5 with rssi := 7, payload := [] } } : State).readable := by decide
theorem witness_SleepOnlyBySetMode_resumed :
    inSection.awake
      ∧ (∀ r u, inSection.activity = .accept r u → decode r ≠ .ok (.setMode 0) ∧ decode r ≠ .ok (.setMode 2))
      ∧ after (step inSection) (fun t => t.idle) = some true :=
  ⟨by decide, fun r u h => Activity.noConfusion (show Activity.resume inSection = .accept r u from h), by decide⟩
theorem witness_SleepOnlyBySetMode_accepts :
    let s := { node with port := [.command 0xB {}] }
    s.awake ∧ s.activity = .accept (.command 0xB {}) node ∧ decode (.command 0xB {}) = .ok .canSend
      ∧ after (step s) (fun t => t.result) = some (some (.bool true)) := by
  exact ⟨by decide, rfl, rfl, by decide⟩
theorem witness_SleepOnlyBySetMode :
    let s := { node with mode := .sleep }
    s.idle = true ∧ Instr.canSend ≠ .setMode 0 ∧ Instr.canSend ≠ .setMode 2
      ∧ after (exec .canSend s) (fun t => t.mode) = some .sleep := by decide

end Sys2Proof.Tests
end

section
/-! PROOFS of the state's family (spec 10_state.md): what a step runs, who writes the mode and the slot, the payload
buffer, and the invariants of the block. Each invariant goes through `step_keeps` and `Advances`, which say once what
the interrupt's entry, a micro-step and a launch can do; the programs' part of it stands with `Follows` and
`Launches`. -/

namespace Sys2Proof.Machine

/-! ### Equations of the step -/

/-- A faulted state has no step (R106). -/
theorem step_faulted {s : State} (hf : s.faulted = true) : step s = .fault .oversizeFrame := by
  simp [step, State.activity, hf]

/-- An operation in flight goes on (R13). -/
theorem step_inFlight {s : State} (hf : s.faulted = false) (hi : s.idle = false) :
    step s = drive (stepBudget s.cfg) s := by
  simp [step, State.activity, hf, hi]

/-- An idle block whose boundary takes an interrupt runs it (R146). -/
theorem step_enters {s : State} (hf : s.faulted = false) (hi : s.idle = true) (hb : s.boundary.idle = false) :
    step s = drive (stepBudget s.boundary.cfg) s.boundary := by
  simp [step, State.activity, hf, hi, hb]

/-- An idle block with nothing presented waits (R160). -/
theorem step_waits {s : State} (hf : s.faulted = false) (hi : s.idle = true) (hb : s.boundary.idle = true)
    (hp : s.boundary.port = []) : step s = .next s.boundary := by
  simp [step, State.activity, hf, hi, hb, hp]

/-- An idle block runs the instruction of the presented request, taken off the port (R70). -/
theorem step_accepts {s : State} {r : Request} {rest : List Request} {i : Instr} (hf : s.faulted = false)
    (hi : s.idle = true) (hb : s.boundary.idle = true) (hp : s.boundary.port = r :: rest) (hd : decode r = .ok i) :
    step s = exec i { s.boundary with port := rest } := by
  simp only [step, State.activity, hf, hi, hb, hp, Bool.not_true, Bool.false_eq_true, if_false, hd]

/-- An idle block refuses a presented request that is no instruction. -/
theorem step_rejects {s : State} {r : Request} {rest : List Request} {e : DecodeError} (hf : s.faulted = false)
    (hi : s.idle = true) (hb : s.boundary.idle = true) (hp : s.boundary.port = r :: rest) (hd : decode r = .error e) :
    step s = .refused (.undecodable e) := by
  simp only [step, State.activity, hf, hi, hb, hp, Bool.not_true, Bool.false_eq_true, if_false, hd]

@[simp] theorem State.boundary_cfg (s : State) : s.boundary.cfg = s.cfg := by
  rcases boundary_cases s with ⟨p, l, h⟩ | ⟨-, l, h⟩ <;> rw [h]

/-- Settles O3, by the equations of the step: its cases exclude each other and are all there are. -/
theorem stepRunsDecodedInstruction : Obligations.StepRunsDecodedInstruction := by
  intro s hf
  refine ⟨step_inFlight hf, fun hi hb => ?_, step_waits hf, fun _ _ _ => step_accepts hf, fun _ _ _ => step_rejects hf⟩
  rw [step_enters hf hi hb, State.boundary_cfg]

/-- Settles O46: with delivery off the event of an edge is the latch alone. -/
theorem maskedEdgeIsLatched : Obligations.MaskedEdgeIsLatched := by
  intro s hf he
  change readyEdge s = .next s.edge
  simp [readyEdge, hf, he]

/-- Settles O50, by what a micro-step changes of the mode. -/
theorem modeWrittenOnlyBySetMode : Obligations.ModeWrittenOnlyBySetMode :=
  fun _ _ _ _ h hne => (runMicro_step h).changes.mode.resolve_left hne

/-- Settles O51, by what a micro-step changes of the slot: its other writers are ON_READY_EDGE's own. -/
theorem slotWrittenByOwners : Obligations.SlotWrittenByOwners := by
  intro ctx m s t h hd hne
  have hs := (runMicro_step h).changes.slot
  generalize s.slot = sl, t.slot = sl' at hs hne
  cases hs with
  | same => exact absurd rfl hne
  | clear f => exact ⟨f, rfl, rfl⟩
  | byte => cases hd
  | store => cases hd
  | sample => cases hd

/-! ### The payload buffer -/

/-- Bytes stored from index `k` on read back at their indices, and the other indices keep what they held (R24). -/
theorem Memory.read_fillFrom (m : Memory) (k i : Nat) (bytes : List Byte) :
    Memory.read (m.fillFrom k bytes) i
      = if k ≤ i ∧ i < k + bytes.length then bytes[i - k]? else Memory.read m i := by
  induction bytes generalizing m k with
  | nil =>
    rw [Memory.fillFrom, if_neg (by simp)]
  | cons b bytes ih =>
    rw [Memory.fillFrom, ih]
    rcases Nat.lt_trichotomy i k with h | rfl | h
    · rw [if_neg (by omega), if_neg (by omega), Memory.read_write_other m k i b (by omega)]
    · simp
    · obtain ⟨j, rfl⟩ : ∃ j, i = k + 1 + j := ⟨i - (k + 1), by omega⟩
      rw [Memory.read_write_other m k _ b (by omega), show k + 1 + j - (k + 1) = j by omega,
        show k + 1 + j - k = j + 1 by omega, List.getElem?_cons_succ, List.length_cons]
      congr 1
      simp only [eq_iff_iff]; omega

/-- Settles O31, by the same fact for bytes stored from any index on. -/
theorem fillReadsBack : Obligations.FillReadsBack := by
  intro m bytes i
  rw [Memory.fill, Memory.read_fillFrom]
  simp

/-! ### Equations of the advance (R146) -/

theorem advance_irq {s : State} {m : Micro} {rest : List Micro} (h : s.handler = m :: rest) :
    advance s = runMicro .irq m { s with handler := rest } := by
  simp only [advance, h]

theorem advance_fg {s : State} {m : Micro} {rest : List Micro} (hh : s.handler = []) (hf : s.foreground = m :: rest) :
    advance s = runMicro .fg m { s with foreground := rest } := by
  simp only [advance, hh, hf]

theorem advance_idle {s : State} (hh : s.handler = []) (hf : s.foreground = []) : advance s = .next s := by
  simp only [advance, hh, hf]

/-! ### Induction over the step -/

/-- Everything an advance that runs the position `m` of a context can do: `ms` is what follows, `rest` what was left. -/
structure Advances (ctx : Context) (m : Micro) (ms rest : List Micro) (s t : State) : Prop where
  before : s.pos ctx = m :: rest
  after : t.pos ctx = ms ++ rest
  other : t.pos ctx.other = s.pos ctx.other
  waits : ctx = .fg → s.handler = []
  follows : Follows m ms
  changes : Changes m s t

/-- A micro-step changes no more of a state than of the state with the position taken. -/
theorem Changes.of_popped {m : Micro} {ctx : Context} {rest : List Micro} {s t : State}
    (h : Changes m (s.popped ctx rest) t) : Changes m s t := by
  obtain ⟨c1, c2, c3, c4, c5, c6, c7, c8, c9, c10, c11, c12⟩ := h
  cases ctx <;> exact ⟨c1, c2, c3, c4, c5, c6, c7, c8, c9, c10, c11, c12⟩

/-- An advance leaves an idle state, or runs the position of one context. -/
theorem advance_advances {s t : State} (h : advance s = .next t) :
    t = s ∨ ∃ ctx m ms rest, Advances ctx m ms rest s t := by
  rcases advance_cases h with ⟨-, ht⟩ | ⟨ctx, m, rest, hp, hw, hr⟩
  · exact .inl ht
  · obtain ⟨⟨ms, hf, ha⟩, ho, hc⟩ := runMicro_step hr
    refine .inr ⟨ctx, m, ms, rest, hp, ?_, ?_, hw, hf, hc.of_popped⟩
    · cases ctx <;> exact ha
    · cases ctx <;> exact ho

/-- The state with other values of the fields that the host and the schedule write. -/
def State.outside (s : State) (pending : Bool) (schedule : List Boundary) (r : Option Result) (q : List Request) :
    State :=
  { s with irqPending := pending, env := { s.env with boundaries := schedule }, result := r, port := q }

/-- An invariant that the host's and the schedule's fields do not touch is kept by every step if the interrupt's entry,
every micro-step and every launch keep it. -/
theorem step_keeps {P : State → Prop} (houtside : ∀ s p l r q, P s → P (s.outside p l r q))
    (hentry : ∀ s : State, s.irqEnabled = true → P s → P s.enterInterrupt)
    (hadv : ∀ ctx m ms rest (s t : State), P s → Advances ctx m ms rest s t → P t) {s t : State}
    (hlaunch : ∀ (r : Request) (i : Instr) (u : State) (p : List Micro), s.activity = .accept r u → decode r = .ok i →
      u.idle = true → P u → Launches i u p → P { u with window := u.window && keepsWindow i, foreground := p })
    (hs : P s) (h : step s = .next t) : P t := by
  refine step_inv ?_ ?_ (fun s r q hs => houtside s s.irqPending s.env.boundaries r q hs) ?_ hlaunch hs h
  · intro s hs
    rcases boundary_cases s with ⟨p, l, h⟩ | ⟨he, l, h⟩
    · exact h ▸ houtside s p l s.result s.port hs
    · exact h ▸ houtside _ false l s.result s.port (hentry s he hs)
  · intro s t hs h
    rcases advance_advances h with rfl | ⟨ctx, m, ms, rest, ha⟩
    · exact hs
    · exact hadv ctx m ms rest s t hs ha
  · intro s _ hs
    have hedge : P s.edge := houtside s true s.env.boundaries s.result s.port hs
    exact ⟨hedge, fun he => hentry s.edge he hedge⟩

/-! ### ON_READY_EDGE's positions (R10, R19) -/

/-- The program holds no position of ON_READY_EDGE. -/
def drainFree (l : List Micro) : Bool :=
  l.all (fun m => !m.drains)

@[simp] theorem drainFree_nil : drainFree [] = true := rfl

@[simp] theorem drainFree_cons (m : Micro) (l : List Micro) : drainFree (m :: l) = (!m.drains && drainFree l) := rfl

@[simp] theorem drainFree_append (a b : List Micro) : drainFree (a ++ b) = (drainFree a && drainFree b) :=
  List.all_append

theorem drainFree_iff (l : List Micro) : drainFree l = true ↔ ∀ m ∈ l, m.drains = false := by
  simp [drainFree]

theorem transition_drainFree (c : Cfg) (m : RadioMode) : drainFree (transition c m) = true :=
  (transition_all (fun _ _ => rfl) c m).trans rfl

theorem sendFrameBody_drainFree (c : Cfg) (bytes : List Byte) : drainFree (sendFrameBody c bytes) = true :=
  (sendFrameBody_all (fun _ _ => rfl) c bytes).trans rfl

theorem setEncryptionKey_drainFree (c : Cfg) (key : Option (List Byte)) :
    drainFree (setEncryptionKey c key) = true :=
  (setEncryptionKey_all (fun _ _ => rfl) (fun _ _ _ => rfl) c key).trans rfl

/-- Only a position of ON_READY_EDGE leads to one (R10 (b)). -/
theorem Follows.drainFree {m : Micro} {ms : List Micro} (h : Follows m ms) (hm : m.drains = false) :
    drainFree ms = true := by
  cases h with
  | setMode c t r hr => exact transition_drainFree c r
  | loadFrame c t k p bytes => exact sendFrameBody_drainFree c bytes
  | edgeGuard | edgeStatus | malformed | oversize | popLength | popTarget | accept | reject | popSender
  | popControl => cases hm
  | _ => rfl

/-- No command's program holds a position of ON_READY_EDGE (R10 (b)). -/
theorem Launches.drainFree {i : Instr} {s : State} {p : List Micro} (h : Launches i s p) : drainFree p = true := by
  cases h with
  | setEncryptionKey s k => rw [drainFree_append, setEncryptionKey_drainFree]; rfl
  | _ => rfl

/-- A micro-step of either context keeps the foreground free of ON_READY_EDGE's positions (R10 (b)). -/
theorem drainFree_advances {ctx : Context} {m : Micro} {ms rest : List Micro} {s t : State}
    (hs : drainFree s.foreground = true) (ha : Advances ctx m ms rest s t) : drainFree t.foreground = true := by
  cases ctx with
  | fg =>
    have hb : s.foreground = m :: rest := ha.before
    have ht : t.foreground = ms ++ rest := ha.after
    simp only [hb, drainFree_cons, Bool.and_eq_true, Bool.not_eq_true'] at hs
    rw [ht, drainFree_append, ha.follows.drainFree hs.1, hs.2]
    rfl
  | irq => rwa [show t.foreground = s.foreground from ha.other]

/-- Settles O52: neither what follows a position outside ON_READY_EDGE nor a command's program holds such a position. -/
theorem foregroundHoldsNoDrain : Obligations.ForegroundHoldsNoDrain :=
  fun _ _ hs h => step_keeps (P := fun s => drainFree s.foreground = true) (fun _ _ _ _ _ h => h) (fun _ _ h => h)
    (fun _ _ _ _ _ _ => drainFree_advances) (fun _ _ _ _ _ _ _ _ hl => hl.drainFree) hs h

/-! ### The slot's invariant (R18, R24) -/

/-- A position outside ON_READY_EDGE carries no length or index. -/
theorem bounded_of_not_drains {m : Micro} (h : m.drains = false) : m.bounded = true := by
  cases m with
  | popTarget | applyFilter | popSender | popControl | popPayload | storeFrame => cases h
  | _ => rfl

theorem bounded_of_drainFree {l : List Micro} (h : drainFree l = true) : l.all Micro.bounded = true :=
  List.all_eq_true.2 fun m hm => bounded_of_not_drains ((drainFree_iff l).1 h m hm)

/-- Every index that holds a byte in the one buffer holds one in the other. -/
def Memory.Covers (m m' : Memory) : Prop :=
  ∀ i, (Memory.read m i).isSome = true → (Memory.read m' i).isSome = true

theorem Memory.Covers.write_write {m m' : Memory} (h : m.Covers m') (i : Nat) (b b' : Byte) :
    Memory.Covers (m.write i b) (m'.write i b') := by
  intro j hj
  by_cases hji : j = i
  · subst hji; simp
  · rw [Memory.read_write_other _ _ _ _ hji] at hj ⊢
    exact h j hj

theorem Memory.covers_write (m : Memory) (i : Nat) (b : Byte) : Memory.Covers m (m.write i b) :=
  fun j hj => Memory.isSome_write m i j b hj

theorem Memory.Covers.holds {m m' : Memory} (h : m.Covers m') {n : Nat} (hn : m.holds n = true) :
    m'.holds n = true := by
  rw [Memory.holds_iff] at hn ⊢
  exact fun i hi => h i (hn i hi)

/-- A position outside ON_READY_EDGE stores no byte and needs none. -/
theorem fillsPayload_cons {m : Memory} {p : Micro} (h : p.drains = false) (l : List Micro) :
    fillsPayload m (p :: l) = fillsPayload m l := by
  cases p with
  | popPayload | storeFrame => cases h
  | _ => rfl

/-- A program that finds its bytes in a buffer finds them where more indices hold one. -/
theorem fillsPayload_mono {m m' : Memory} (h : m.Covers m') {l : List Micro} (hl : fillsPayload m l = true) :
    fillsPayload m' l = true := by
  induction l generalizing m m' with
  | nil => rfl
  | cons p l ih =>
    cases p with
    | popPayload i => exact ih (h.write_write i 0 0) hl
    | storeFrame length t sn k =>
      obtain ⟨h1, h2⟩ := Bool.and_eq_true_iff.1 hl
      exact Bool.and_eq_true_iff.2 ⟨h.holds h1, ih h h2⟩
    | _ => exact ih h hl

theorem fillsPayload_append {m : Memory} {a b : List Micro} (ha : fillsPayload m a = true)
    (hb : fillsPayload m b = true) : fillsPayload m (a ++ b) = true := by
  induction a generalizing m with
  | nil => exact hb
  | cons p a ih =>
    cases p with
    | popPayload i => exact ih ha (fillsPayload_mono (m.covers_write i 0) hb)
    | storeFrame length t sn k =>
      obtain ⟨h1, h2⟩ := Bool.and_eq_true_iff.1 ha
      exact Bool.and_eq_true_iff.2 ⟨h1, ih h2 hb⟩
    | _ => exact ih ha hb

theorem fillsPayload_of_drainFree (m : Memory) {l : List Micro} (h : drainFree l = true) :
    fillsPayload m l = true := by
  induction l with
  | nil => rfl
  | cons p l ih =>
    simp only [drainFree_cons, Bool.and_eq_true, Bool.not_eq_true'] at h
    rw [fillsPayload_cons h.1, ih h.2]

/-- The buffer after the payload positions with the listed indices. -/
def Memory.marked (m : Memory) (l : List Nat) : Memory :=
  l.foldl (fun m i => Memory.write m i 0) m

/-- The payload positions of line 11 hold a byte at each of their indices for what comes after them (R100). -/
theorem fillsPayload_popPayloads (m : Memory) (l : List Nat) (rest : List Micro) :
    fillsPayload m (l.map Micro.popPayload ++ rest) = fillsPayload (m.marked l) rest := by
  induction l generalizing m with
  | nil => rfl
  | cons i l ih => exact ih (m.write i 0)

theorem Memory.covers_marked (m : Memory) (l : List Nat) : m.Covers (m.marked l) := by
  induction l generalizing m with
  | nil => exact fun _ h => h
  | cons i l ih => exact fun j hj => ih (m.write i 0) j (m.covers_write i 0 j hj)

theorem Memory.isSome_marked (m : Memory) {l : List Nat} {i : Nat} (h : i ∈ l) :
    (Memory.read (m.marked l) i).isSome = true := by
  induction l generalizing m with
  | nil => cases h
  | cons j l ih =>
    rcases List.mem_cons.1 h with rfl | h
    · exact Memory.covers_marked (m.write i 0) l i (by simp)
    · exact ih (m.write j 0) h

theorem Memory.holds_marked_range (m : Memory) (n : Nat) : (m.marked (List.range n)).holds n = true :=
  (Memory.holds_iff _ n).2 fun _ hi => m.isSome_marked (List.mem_range.2 hi)

theorem payloadLengthOf_toNat {l : Byte} (h : 3 ≤ l.toNat) : (payloadLengthOf l).toNat = l.toNat - 3 := by
  unfold payloadLengthOf
  bv_omega

/-- Lengths that pass the test of line 5, and the indices below their payload length, are in range (R100, R106). -/
theorem Follows.bounded {m : Micro} {ms : List Micro} (h : Follows m ms) (hm : m.bounded = true) :
    ms.all Micro.bounded = true := by
  cases hd : m.drains with
  | false => exact bounded_of_drainFree (h.drainFree hd)
  | true =>
    cases h with
    | nothing => rfl
    | popLength l hl => simpa [Micro.bounded] using hl
    | popControl l t sn k =>
      have hl : 3 ≤ l.toNat ∧ l.toNat ≤ 64 := by simpa [Micro.bounded] using hm
      have hn := payloadLengthOf_toNat hl.1
      have hi : ∀ i < (payloadLengthOf l).toNat, i ≤ 60 := by omega
      simpa [Micro.bounded, List.all_map] using ⟨hi, hl⟩
    | popTarget l t => simpa [Micro.bounded] using hm
    | accept l t => simpa [Micro.bounded] using hm
    | popSender l t sn => simpa [Micro.bounded] using hm
    | edgeGuard | edgeStatus | malformed | oversize | reject => rfl
    | _ => cases hd

/-- What follows a position finds the bytes it needs: line 11 writes them before line 12 stores the frame (R100). -/
theorem Follows.fillsPayload {m : Micro} {ms : List Micro} (h : Follows m ms) (hm : m.bounded = true) (mem : Memory) :
    fillsPayload mem ms = true := by
  cases hd : m.drains with
  | false => exact fillsPayload_of_drainFree mem (h.drainFree hd)
  | true =>
    cases h with
    | popControl l t sn k =>
      have hl : 3 ≤ l.toNat ∧ l.toNat ≤ 64 := by simpa [Micro.bounded] using hm
      rw [fillsPayload_popPayloads, payloadLengthOf_toNat hl.1]
      simp [Machine.fillsPayload, Memory.holds_marked_range]
    | nothing | edgeGuard | edgeStatus | malformed | oversize | popLength | popTarget | accept | reject
    | popSender => rfl
    | _ => cases hd

/-- Clearing a field keeps the lengths in agreement: the two lengths go together (log entry 15). -/
theorem Slot.lengthsOk_clearField {sl : Slot} (h : sl.lengthsOk) (f : SlotField) : (sl.clearField f).lengthsOk := by
  obtain ⟨hp, hl, hh⟩ := h
  cases f with
  | lengths => exact ⟨.inl rfl, Nat.zero_le 61, rfl⟩
  | pendingLength => exact ⟨.inl rfl, hl, hh⟩
  | _ => exact ⟨hp, hl, hh⟩

/-- A stored frame has agreeing lengths where its bytes are held (R100 line 12). -/
theorem Slot.lengthsOk_store {sl : Slot} {l : Byte} (h : 3 ≤ l.toNat ∧ l.toNat ≤ 64)
    (hh : sl.payload.holds (l.toNat - 3) = true) (t sn k : Byte) : (sl.store l t sn k).lengthsOk := by
  have hn := payloadLengthOf_toNat h.1
  refine ⟨.inr ⟨h.1, h.2, ?_⟩, ?_, ?_⟩
  · change l = 3 + (l - 3)
    bv_omega
  · change (payloadLengthOf l).toNat ≤ 61
    omega
  · change sl.payload.holds (payloadLengthOf l).toNat = true
    rwa [hn]

/-- The slot itself is in order: the part of `State.slotInv` that no position plays a part in. -/
def Slot.inOrder (sl : Slot) : Prop :=
  Memory.wf sl.payload = true ∧ sl.lengthsOk

/-- A position that finds the bytes it needs keeps the slot in order and the bytes held, and leaves the bytes that the
rest needs (R18, R24). -/
theorem SlotStep.inOrder {m : Micro} {sl sl' : Slot} {rest : List Micro} (h : SlotStep m sl sl') (hs : sl.inOrder)
    (hm : m.bounded = true) (hf : fillsPayload sl.payload (m :: rest) = true) :
    sl'.inOrder ∧ sl.payload.Covers sl'.payload ∧ fillsPayload sl'.payload rest = true := by
  obtain ⟨hw, hl⟩ := hs
  cases h with
  | same _ _ hn =>
    refine ⟨⟨hw, hl⟩, fun _ h => h, ?_⟩
    cases m with
    | popPayload | storeFrame => cases hn
    | _ => exact hf
  | clear f => exact ⟨⟨by rwa [Slot.clearField_payload], Slot.lengthsOk_clearField hl f⟩,
      by rw [Slot.clearField_payload]; exact fun _ h => h, by rw [Slot.clearField_payload]; exact hf⟩
  | byte i b =>
    have hi : i ≤ 60 := by simpa [Micro.bounded] using hm
    have hc := sl.payload.covers_write i b
    have hz : Memory.Covers (sl.payload.write i 0) (sl.payload.write i b) :=
      Memory.Covers.write_write (fun _ h => h) i 0 b
    obtain ⟨hp, hn, hh⟩ := hl
    exact ⟨⟨Memory.wf_write _ i b hw (Nat.lt_succ_of_le hi), hp, hn, hc.holds hh⟩, hc, fillsPayload_mono hz hf⟩
  | store l t sn k =>
    obtain ⟨hh, hr⟩ := Bool.and_eq_true_iff.1 hf
    exact ⟨⟨hw, Slot.lengthsOk_store (by simpa [Micro.bounded] using hm) hh t sn k⟩, fun _ h => h, hr⟩
  | sample r => exact ⟨⟨hw, hl⟩, fun _ h => h, hf⟩

/-- A context's position carries lengths and indices in range and finds the bytes it needs. -/
def State.fitsSlot (s : State) (ctx : Context) : Prop :=
  (s.pos ctx).all Micro.bounded = true ∧ fillsPayload s.slot.payload (s.pos ctx) = true

theorem State.slotInv_iff (s : State) (ctx : Context) :
    s.slotInv ↔ s.slot.inOrder ∧ s.fitsSlot ctx ∧ s.fitsSlot ctx.other := by
  cases ctx <;> simp only [State.slotInv, Slot.inOrder, State.fitsSlot, Context.other, State.pos] <;> tauto

/-- A micro-step of either context keeps the invariant: the other context's position finds its bytes still. -/
theorem slotInv_advances {ctx : Context} {m : Micro} {ms rest : List Micro} {s t : State} (hs : s.slotInv)
    (ha : Advances ctx m ms rest s t) : t.slotInv := by
  obtain ⟨ho, ⟨hb, hf⟩, hb', hf'⟩ := (s.slotInv_iff ctx).1 hs
  rw [ha.before] at hb hf
  simp only [List.all_cons, Bool.and_eq_true] at hb
  obtain ⟨ht, hc, hr⟩ := ha.changes.slot.inOrder ho hb.1 hf
  refine (t.slotInv_iff ctx).2 ⟨ht, ⟨?_, ?_⟩, ?_, ?_⟩
  · rw [ha.after, List.all_append, ha.follows.bounded hb.1, hb.2]; rfl
  · rw [ha.after]; exact fillsPayload_append (ha.follows.fillsPayload hb.1 _) hr
  · rwa [ha.other]
  · rw [ha.other]; exact fillsPayload_mono hc hf'

theorem slotInv_launch {i : Instr} {u : State} {p : List Micro} (hu : u.slotInv) (hl : Launches i u p) (w : Bool) :
    State.slotInv { u with window := w, foreground := p } := by
  obtain ⟨hw, ho, -, hb, -, hf⟩ := hu
  exact ⟨hw, ho, bounded_of_drainFree hl.drainFree, hb, fillsPayload_of_drainFree _ hl.drainFree, hf⟩

/-- Settles O53: the invariant is kept by every micro-step and every launch, whatever the schedule. -/
theorem slotInvariantKept : Obligations.SlotInvariantKept :=
  fun _ _ hs h => step_keeps (P := State.slotInv) (fun _ _ _ _ _ h => h) (fun _ _ h => h)
    (fun _ _ _ _ _ _ => slotInv_advances) (fun _ _ _ _ _ _ _ hu hl => slotInv_launch hu hl _) hs h

/-! ### Programs that close what they open (R47) -/

/-- How many critical sections what follows a position closes: `receiveTest` leads to RECEIVE_DONE's rest (R103). -/
def Micro.owes : Micro → Nat
  | .receiveTest => 1
  | _ => 0

theorem closesAll_cons {d : Nat} {m : Micro} {l : List Micro} :
    closesAll d (m :: l) = true ↔ 0 ≤ (d : Int) + m.nesting ∧ closesAll (d + m.nesting).toNat l = true := by
  simp [closesAll]

/-- A program that closes `e` sections, before one that closes `d`, inside the sections of both. -/
theorem closesAll_append {d e : Nat} {a b : List Micro} (ha : closesAll e a = true) (hb : closesAll d b = true) :
    closesAll (d + e) (a ++ b) = true := by
  induction a generalizing e with
  | nil =>
    have he : e = 0 := by simpa [closesAll] using ha
    exact he ▸ hb
  | cons m a ih =>
    obtain ⟨hn, ha⟩ := closesAll_cons.1 ha
    refine closesAll_cons.2 ⟨by omega, ?_⟩
    rw [show ((d + e : Nat) + m.nesting).toNat = d + (e + m.nesting).toNat by omega]
    exact ih ha

/-- Balanced programs one after the other are balanced. -/
theorem closesAll_zero_append {a b : List Micro} (ha : closesAll 0 a = true) (hb : closesAll 0 b = true) :
    closesAll 0 (a ++ b) = true :=
  closesAll_append ha hb

/-- A critical section around a balanced program is balanced (R47). -/
theorem closesAll_critical {a : List Micro} (ha : closesAll 0 a = true) : closesAll 0 (critical a) = true :=
  closesAll_append (d := 1) ha (b := [.exitCritical]) rfl

theorem closesAll_of_flat {l : List Micro} (h : ∀ m ∈ l, m.nesting = 0) : closesAll 0 l = true := by
  induction l with
  | nil => rfl
  | cons m l ih =>
    obtain ⟨hm, hl⟩ := List.forall_mem_cons.1 h
    exact closesAll_cons.2 (by rw [hm]; exact ⟨le_refl 0, ih hl⟩)

theorem closesAll_writes (l : List (Addr × Byte)) : closesAll 0 (writes l) = true :=
  closesAll_of_flat fun m hm => by obtain ⟨p, -, rfl⟩ := List.mem_map.1 hm; rfl

theorem closesAll_fifoFill (c : Cfg) (bytes : List Byte) : closesAll 0 (fifoFill c bytes) = true :=
  closesAll_of_flat fun m hm => by obtain ⟨b, -, rfl⟩ := List.mem_map.1 hm; rfl

theorem closesAll_transition (c : Cfg) (m : RadioMode) : closesAll 0 (transition c m) = true :=
  closesAll_zero_append (closesAll_zero_append (closesAll_critical rfl) (closesAll_writes _)) rfl

theorem closesAll_sendFrameBody (c : Cfg) (bytes : List Byte) : closesAll 0 (sendFrameBody c bytes) = true :=
  closesAll_zero_append (closesAll_critical (closesAll_fifoFill c bytes)) rfl

theorem closesAll_setEncryptionKey (c : Cfg) (key : Option (List Byte)) :
    closesAll 0 (setEncryptionKey c key) = true := by
  cases key with
  | none => rfl
  | some k =>
    exact closesAll_zero_append (a := [.setMode 1]) rfl
      (closesAll_critical (closesAll_zero_append (closesAll_writes _) rfl))

theorem closesAll_popPayloads (l : List Nat) : closesAll 0 (l.map Micro.popPayload) = true :=
  closesAll_of_flat fun m hm => by obtain ⟨i, -, rfl⟩ := List.mem_map.1 hm; rfl

/-- What follows a position closes the sections it opens and the one that the position owes (R47). -/
theorem Follows.closesAll {m : Micro} {ms : List Micro} (h : Follows m ms) : closesAll m.owes ms = true := by
  cases h with
  | nothing _ h =>
    cases m with
    | receiveTest => cases h
    | _ => rfl
  | setMode c t r hr => exact closesAll_transition c r
  | loadFrame c t k p bytes => exact closesAll_sendFrameBody c bytes
  | popControl l t sn k => exact closesAll_zero_append (closesAll_popPayloads _) rfl
  | _ => rfl

/-- Every command's program closes exactly the sections it opens (R47). -/
theorem Launches.closesAll {i : Instr} {s : State} {p : List Micro} (h : Launches i s p) : closesAll 0 p = true := by
  cases h with
  | setEncryptionKey s k => exact closesAll_zero_append (closesAll_setEncryptionKey s.cfg k) rfl
  | _ => rfl

/-- No position leads to the return from the interrupt context: only the entry puts it there (R148). -/
theorem Follows.irqReturn_not_mem {m : Micro} {ms : List Micro} (h : Follows m ms) : .irqReturn ∉ ms := by
  cases hd : m.drains with
  | false => exact fun hm => Bool.noConfusion ((drainFree_iff ms).1 (h.drainFree hd) _ hm)
  | true =>
    cases h with
    | popControl => simp
    | nothing | edgeGuard | edgeStatus | malformed | oversize | popLength | popTarget | accept | reject
    | popSender => simp [discard, receiveBegin, receiveSlotClear]
    | _ => cases hd

/-! ### The enable and the saved enables (R47, R149) -/

/-- Only the outermost open section restores "on": the foreground's sections (R47). -/
def restoresOn : List Bool → Prop
  | [] => True
  | c :: outer => c = outer.isEmpty ∧ restoresOn outer

theorem restoresOn_iff (l : List Bool) :
    restoresOn l ↔ l = (List.replicate l.length false).dropLast ++ List.replicate (min 1 l.length) true := by
  induction l with
  | nil => simp [restoresOn]
  | cons c l ih =>
    cases l with
    | nil => simp [restoresOn]
    | cons c' l =>
      rw [restoresOn, ih]
      simp [List.replicate_succ]

/-- The number of open sections moves as the position says, one that the position owes aside. -/
theorem EnableStep.length {m : Micro} {e e' : Bool} {l l' : List Bool} (h : EnableStep m e l e' l')
    (hc : 0 ≤ (l.length : Int) + m.nesting) : l'.length = (l.length + m.nesting).toNat + m.owes := by
  cases h with
  | enter => simp [Micro.nesting, Micro.owes]
  | leave => simp [Micro.nesting, Micro.owes]
  | unmatched => exact absurd hc (by decide)
  | irqReturn => simp [Micro.nesting, Micro.owes]
  | same _ _ _ h =>
    cases m with
    | enterCritical => exact absurd rfl h.1
    | exitCritical => exact absurd rfl h.2.1
    | receiveTest => simp only [Micro.nesting, Micro.owes] at hc ⊢; omega
    | _ => simp [Micro.nesting, Micro.owes]

/-- In the foreground delivery stays on exactly outside the sections (R47). -/
theorem EnableStep.restoresOn {m : Micro} {e e' : Bool} {l l' : List Bool} (h : EnableStep m e l e' l')
    (hm : m ≠ .irqReturn) (hc : 0 ≤ (l.length : Int) + m.nesting) (he : e = l.isEmpty) (hl : restoresOn l) :
    e' = l'.isEmpty ∧ restoresOn l' := by
  cases h with
  | enter => exact ⟨rfl, he, hl⟩
  | leave e c outer => exact hl
  | unmatched => exact absurd hc (by decide)
  | irqReturn => exact absurd rfl hm
  | same => exact ⟨he, hl⟩

/-- In the interrupt context delivery stays off, and every section restores "off" (R149). -/
theorem EnableStep.staysOff {m : Micro} {e' : Bool} {l l' : List Bool} (h : EnableStep m false l e' l')
    (hm : m ≠ .irqReturn) (hl : ∀ c ∈ l, c = false) : e' = false ∧ ∀ c ∈ l', c = false := by
  cases h with
  | enter => exact ⟨rfl, List.forall_mem_cons.2 ⟨rfl, hl⟩⟩
  | leave e c outer => exact List.forall_mem_cons.1 hl
  | unmatched => exact ⟨rfl, hl⟩
  | irqReturn => exact absurd rfl hm
  | same => exact ⟨rfl, hl⟩

/-! ### Critical sections and delivery in agreement (R47, R145, R149) -/

theorem disciplined_iff_of_foreground {s : State} (h : s.handler = []) :
    s.disciplined ↔ drainFree s.foreground = true ∧ closesAll s.saved.length s.foreground = true
      ∧ s.irqEnabled = s.saved.isEmpty ∧ restoresOn s.saved := by
  rw [drainFree_iff, restoresOn_iff, State.disciplined, if_pos h]

/-- A program that ends with the return and holds it nowhere else is a body and the return (R148). -/
theorem getLast?_irqReturn_iff {l : List Micro} :
    (l.getLast? = some .irqReturn ∧ ∀ m ∈ l.dropLast, m ≠ .irqReturn) ↔
    ∃ body, l = body ++ [.irqReturn] ∧ .irqReturn ∉ body := by
  constructor
  · rintro ⟨hl, hd⟩
    exact ⟨l.dropLast, (List.dropLast_append_getLast? _ hl).symm, fun hm => hd _ hm rfl⟩
  · rintro ⟨body, rfl, hb⟩
    exact ⟨by simp, fun m hm he => hb (by simpa [he] using hm)⟩

theorem disciplined_iff_of_handler {s : State} (h : s.handler ≠ []) :
    s.disciplined ↔ drainFree s.foreground = true ∧ s.irqEnabled = false ∧ closesAll 0 s.foreground = true
      ∧ closesAll s.saved.length s.handler = true ∧ (∀ c ∈ s.saved, c = false)
      ∧ ∃ body, s.handler = body ++ [.irqReturn] ∧ .irqReturn ∉ body := by
  rw [drainFree_iff, ← getLast?_irqReturn_iff, State.disciplined, if_neg h, List.eq_replicate_iff]
  simp only [true_and]

/-- A disciplined state with delivery on runs the foreground outside every section (R149). -/
theorem State.disciplined.of_enabled {s : State} (hs : s.disciplined) (he : s.irqEnabled = true) :
    s.handler = [] ∧ s.saved = [] := by
  by_cases hh : s.handler = []
  · obtain ⟨-, -, hi, -⟩ := (disciplined_iff_of_foreground hh).1 hs
    exact ⟨hh, List.isEmpty_iff.1 (hi ▸ he)⟩
  · obtain ⟨-, hi, -⟩ := (disciplined_iff_of_handler hh).1 hs
    rw [hi] at he
    cases he

/-- With nothing in flight delivery is on and no section is open (R160). -/
theorem State.disciplined.of_idle {s : State} (hs : s.disciplined) (hi : s.idle = true) :
    s.handler = [] ∧ s.irqEnabled = true ∧ s.saved = [] := by
  simp only [State.idle, Bool.and_eq_true, List.isEmpty_iff] at hi
  obtain ⟨-, hc, he, -⟩ := (disciplined_iff_of_foreground hi.2).1 hs
  have hn : s.saved = [] := by
    rw [hi.1] at hc
    exact List.eq_nil_of_length_eq_zero (by simpa [closesAll] using hc)
  exact ⟨hi.2, by rw [he, hn]; rfl, hn⟩

/-- The interrupt is entered only outside the foreground's sections (R145, R148). -/
theorem disciplined_entry {s : State} (he : s.irqEnabled = true) (hs : s.disciplined) :
    s.enterInterrupt.disciplined := by
  obtain ⟨hh, hn⟩ := hs.of_enabled he
  obtain ⟨hd, hc, -, -⟩ := (disciplined_iff_of_foreground hh).1 hs
  refine (disciplined_iff_of_handler (List.cons_ne_nil _ _)).2 ⟨hd, rfl, ?_, ?_, ?_, ?_⟩
  · rwa [hn] at hc
  · simp [hn, hh, handlerProgram, closesAll, Micro.nesting]
  · simp [hn]
  · exact ⟨[.edgeGuard], by simp [hh, handlerProgram], by simp⟩

/-- A micro-step of a context leaves as many sections open as the rest of the context closes (R47). -/
theorem Advances.closesAll {ctx : Context} {m : Micro} {ms rest : List Micro} {s t : State}
    (ha : Advances ctx m ms rest s t) (hc : closesAll s.saved.length (s.pos ctx) = true) :
    closesAll t.saved.length (t.pos ctx) = true := by
  rw [ha.before] at hc
  obtain ⟨hn, hr⟩ := closesAll_cons.1 hc
  rw [ha.after, ha.changes.enable.length hn]
  exact closesAll_append ha.follows.closesAll hr

theorem disciplined_advances_fg {m : Micro} {ms rest : List Micro} {s t : State} (hs : s.disciplined)
    (ha : Advances .fg m ms rest s t) : t.disciplined := by
  have hh := ha.waits rfl
  obtain ⟨hd, hc, he, hr⟩ := (disciplined_iff_of_foreground hh).1 hs
  have hb : s.foreground = m :: rest := ha.before
  have hm : m ≠ .irqReturn := by
    rintro rfl
    rw [hb] at hd
    cases hd
  have hn := (closesAll_cons.1 (hb ▸ hc)).1
  exact (disciplined_iff_of_foreground (Eq.trans ha.other hh)).2
    ⟨drainFree_advances hd ha, ha.closesAll hc, ha.changes.enable.restoresOn hm hn he hr⟩

/-- The interrupt context's next position is the return, the last one, or comes before it. -/
theorem irqReturn_first {m : Micro} {rest body : List Micro} (h : m :: rest = body ++ [.irqReturn])
    (hb : .irqReturn ∉ body) :
    m = .irqReturn ∧ rest = [] ∨ m ≠ .irqReturn ∧ ∃ body', rest = body' ++ [.irqReturn] ∧ .irqReturn ∉ body' := by
  cases body with
  | nil => exact .inl (List.cons.inj h)
  | cons b body =>
    obtain ⟨rfl, rfl⟩ := List.cons.inj h
    exact .inr ⟨fun he => hb (he ▸ List.mem_cons_self), body, rfl, fun hm => hb (List.mem_cons_of_mem _ hm)⟩

/-- The return turns delivery on and leaves the open sections (R148). -/
theorem EnableStep.of_irqReturn {e e' : Bool} {l l' : List Bool} (h : EnableStep .irqReturn e l e' l') :
    e' = true ∧ l' = l := by
  cases h with
  | irqReturn => exact ⟨rfl, rfl⟩
  | same _ _ _ h => exact absurd rfl h.2.2

/-- The return leaves delivery on and the foreground outside every section (R148). -/
theorem disciplined_irqReturn {ms : List Micro} {s t : State} (hs : s.disciplined)
    (ha : Advances .irq .irqReturn ms [] s t) : t.disciplined := by
  have hb : s.handler = [.irqReturn] := ha.before
  obtain ⟨hd, -, hf, hc, -, -⟩ := (disciplined_iff_of_handler (by simp [hb])).1 hs
  have hsaved : s.saved = [] := by
    rw [hb] at hc
    simpa [closesAll, Micro.nesting] using hc
  have hfg : t.foreground = s.foreground := ha.other
  have ht : t.handler = [] := by
    have h := ha.after
    cases ha.follows
    exact h
  obtain ⟨hte, hts⟩ := ha.changes.enable.of_irqReturn
  rw [hsaved] at hts
  refine (disciplined_iff_of_foreground ht).2 ⟨hfg ▸ hd, ?_, ?_, ?_⟩
  · rwa [hts, hfg]
  · rw [hts, hte]; rfl
  · rw [hts]; trivial

theorem disciplined_advances_irq {m : Micro} {ms rest : List Micro} {s t : State} (hs : s.disciplined)
    (ha : Advances .irq m ms rest s t) : t.disciplined := by
  have hb : s.handler = m :: rest := ha.before
  have ht : t.handler = ms ++ rest := ha.after
  obtain ⟨hd, he, hf, hc, ho, body, hl, hbody⟩ := (disciplined_iff_of_handler (by simp [hb])).1 hs
  rcases irqReturn_first (hb.symm.trans hl) hbody with ⟨rfl, rfl⟩ | ⟨hm, body', rfl, hbody'⟩
  · exact disciplined_irqReturn hs ha
  · have hfg : t.foreground = s.foreground := ha.other
    obtain ⟨hte, hto⟩ := (he ▸ ha.changes.enable).staysOff hm ho
    refine (disciplined_iff_of_handler (by simp [ht])).2
      ⟨hfg ▸ hd, hte, hfg ▸ hf, ha.closesAll hc, hto, ms ++ body', ?_, ?_⟩
    · rw [ht, List.append_assoc]
    · exact fun h => (List.mem_append.1 h).elim ha.follows.irqReturn_not_mem hbody'

theorem disciplined_advances {ctx : Context} {m : Micro} {ms rest : List Micro} {s t : State} (hs : s.disciplined)
    (ha : Advances ctx m ms rest s t) : t.disciplined := by
  cases ctx with
  | fg => exact disciplined_advances_fg hs ha
  | irq => exact disciplined_advances_irq hs ha

theorem disciplined_launch {i : Instr} {u : State} {p : List Micro} (hi : u.idle = true) (hu : u.disciplined)
    (hl : Launches i u p) (w : Bool) : State.disciplined { u with window := w, foreground := p } := by
  obtain ⟨hh, he, hn⟩ := hu.of_idle hi
  refine (disciplined_iff_of_foreground (s := { u with window := w, foreground := p }) hh).2 ⟨hl.drainFree, ?_, ?_, ?_⟩
  · change closesAll u.saved.length p = true
    rw [hn]; exact hl.closesAll
  · change u.irqEnabled = u.saved.isEmpty
    rw [he, hn]; rfl
  · change restoresOn u.saved
    rw [hn]; trivial

theorem step_disciplined {s t : State} (hs : s.disciplined) (h : step s = .next t) : t.disciplined :=
  step_keeps (P := State.disciplined) (fun _ _ _ _ _ h => h) (fun _ => disciplined_entry)
    (fun _ _ _ _ _ _ => disciplined_advances) (fun _ _ _ _ _ _ hi hu hl => disciplined_launch hi hu hl _) hs h

/-! ### The foreground clears inside its critical sections (R19) -/

theorem clearsSuppressed_cons {d : Nat} {m : Micro} {l : List Micro} :
    clearsSuppressed d (m :: l) = true
      ↔ (0 < d ∨ m.clears = false) ∧ clearsSuppressed (d + m.nesting).toNat l = true := by
  simp [clearsSuppressed]

theorem clearsSuppressed_of_none {l : List Micro} (h : l.all (fun m => !m.clears) = true) (d : Nat) :
    clearsSuppressed d l = true := by
  induction l generalizing d with
  | nil => rfl
  | cons m l ih =>
    simp only [List.all_cons, Bool.and_eq_true, Bool.not_eq_true'] at h
    exact clearsSuppressed_cons.2 ⟨.inr h.1, ih h.2 _⟩

theorem clearsSuppressed_append {d e : Nat} {a b : List Micro} (hc : closesAll e a = true)
    (ha : clearsSuppressed e a = true) (hb : clearsSuppressed d b = true) :
    clearsSuppressed (d + e) (a ++ b) = true := by
  induction a generalizing e with
  | nil =>
    have he : e = 0 := by simpa [Machine.closesAll] using hc
    exact he ▸ hb
  | cons m a ih =>
    obtain ⟨hn, hc⟩ := closesAll_cons.1 hc
    obtain ⟨hm, ha⟩ := clearsSuppressed_cons.1 ha
    refine clearsSuppressed_cons.2 ⟨hm.imp_left (by omega), ?_⟩
    rw [show ((d + e : Nat) + m.nesting).toNat = d + (e + m.nesting).toNat by omega]
    exact ih hc ha

/-- Outside ON_READY_EDGE only the rest of RECEIVE_DONE clears, inside the section that it closes (R103). -/
theorem Follows.clearsSuppressed {m : Micro} {ms : List Micro} (h : Follows m ms) (hm : m.drains = false) :
    clearsSuppressed m.owes ms = true := by
  cases h with
  | rearm c => rfl
  | setMode c t r hr => exact clearsSuppressed_of_none ((transition_all (fun _ _ => rfl) c r).trans rfl) 0
  | loadFrame c t k p bytes =>
    exact clearsSuppressed_of_none ((sendFrameBody_all (fun _ _ => rfl) c bytes).trans rfl) 0
  | malformed | reject | popControl => cases hm
  | _ => rfl

/-- Every command but INITIALIZE clears inside its sections (R19, R130). -/
theorem Launches.clearsSuppressed {i : Instr} {s : State} {p : List Micro} (h : Launches i s p)
    (hi : ∀ band nodeId networkId, i ≠ .initBlock band nodeId networkId) : clearsSuppressed 0 p = true := by
  cases h with
  | init s b n w => exact absurd rfl (hi b n w)
  | setEncryptionKey s k =>
    refine clearsSuppressed_of_none ?_ 0
    rw [List.all_append, setEncryptionKey_all (fun _ _ => rfl) (fun _ _ _ => rfl)]
    rfl
  | _ => rfl

theorem clearsInside_iff_of_foreground {s : State} (h : s.handler = []) :
    s.clearsInside ↔ clearsSuppressed s.saved.length s.foreground = true := by
  rw [State.clearsInside, if_pos h]

theorem clearsInside_iff_of_handler {s : State} (h : s.handler ≠ []) :
    s.clearsInside ↔ clearsSuppressed 0 s.foreground = true := by
  rw [State.clearsInside, if_neg h]

/-- A program closes one number of sections only. -/
theorem closesAll_unique {d e : Nat} {l : List Micro} (hd : closesAll d l = true) (he : closesAll e l = true) :
    d = e := by
  induction l generalizing d e with
  | nil => simp_all [closesAll]
  | cons m l ih =>
    obtain ⟨hdn, hd⟩ := closesAll_cons.1 hd
    obtain ⟨hen, he⟩ := closesAll_cons.1 he
    have := ih hd he
    omega

theorem clearsInside_entry {s : State} (he : s.irqEnabled = true) (hs : s.disciplined) (hc : s.clearsInside) :
    s.enterInterrupt.clearsInside := by
  obtain ⟨hh, hn⟩ := hs.of_enabled he
  have h := (clearsInside_iff_of_foreground hh).1 hc
  rw [hn] at h
  exact (clearsInside_iff_of_handler (List.cons_ne_nil _ _)).2 h

theorem clearsInside_advances_fg {m : Micro} {ms rest : List Micro} {s t : State} (hs : s.disciplined)
    (hi : s.clearsInside) (ha : Advances .fg m ms rest s t) : t.clearsInside := by
  have hh := ha.waits rfl
  have hb : s.foreground = m :: rest := ha.before
  have ht : t.foreground = ms ++ rest := ha.after
  obtain ⟨hd, hc, -, -⟩ := (disciplined_iff_of_foreground hh).1 hs
  have hi := (clearsInside_iff_of_foreground hh).1 hi
  rw [hb] at hd hc hi
  simp only [drainFree_cons, Bool.and_eq_true, Bool.not_eq_true'] at hd
  refine (clearsInside_iff_of_foreground (Eq.trans ha.other hh)).2 ?_
  rw [ht, ha.changes.enable.length (closesAll_cons.1 hc).1]
  exact clearsSuppressed_append ha.follows.closesAll (ha.follows.clearsSuppressed hd.1) (clearsSuppressed_cons.1 hi).2

/-- The interrupt context leaves the foreground's position, and its return opens no section of the foreground. -/
theorem clearsInside_advances_irq {m : Micro} {ms rest : List Micro} {s t : State} (hs : s.disciplined)
    (hi : s.clearsInside) (ha : Advances .irq m ms rest s t) : t.clearsInside := by
  have hh : s.handler ≠ [] := by
    rw [show s.handler = m :: rest from ha.before]
    exact List.cons_ne_nil _ _
  have hfg : t.foreground = s.foreground := ha.other
  obtain ⟨-, -, hf, -⟩ := (disciplined_iff_of_handler hh).1 hs
  have hi := (clearsInside_iff_of_handler hh).1 hi
  by_cases ht : t.handler = []
  · obtain ⟨-, htc, -⟩ := (disciplined_iff_of_foreground ht).1 (disciplined_advances hs ha)
    rw [clearsInside_iff_of_foreground ht, closesAll_unique htc (hfg ▸ hf), hfg]
    exact hi
  · rw [clearsInside_iff_of_handler ht, hfg]
    exact hi

theorem clearsInside_advances {ctx : Context} {m : Micro} {ms rest : List Micro} {s t : State} (hs : s.disciplined)
    (hi : s.clearsInside) (ha : Advances ctx m ms rest s t) : t.clearsInside := by
  cases ctx with
  | fg => exact clearsInside_advances_fg hs hi ha
  | irq => exact clearsInside_advances_irq hs hi ha

theorem clearsInside_launch {i : Instr} {u : State} {p : List Micro} (hi : u.idle = true) (hu : u.disciplined)
    (hl : Launches i u p) (hn : ∀ band nodeId networkId, i ≠ .initBlock band nodeId networkId) (w : Bool) :
    State.clearsInside { u with window := w, foreground := p } := by
  obtain ⟨hh, -, hsaved⟩ := hu.of_idle hi
  refine (clearsInside_iff_of_foreground (s := { u with window := w, foreground := p }) hh).2 ?_
  change clearsSuppressed u.saved.length p = true
  rw [hsaved]
  exact hl.clearsSuppressed hn

theorem step_clearsInside {s t : State} (hs : s.disciplined) (hc : s.clearsInside)
    (hn : ∀ r u band nodeId networkId, s.activity = .accept r u → decode r ≠ .ok (.initBlock band nodeId networkId))
    (h : step s = .next t) : t.clearsInside := by
  refine (step_keeps (P := fun s => s.disciplined ∧ s.clearsInside) (fun _ _ _ _ _ h => h) ?_ ?_ ?_ ⟨hs, hc⟩ h).2
  · exact fun s he ⟨hs, hc⟩ => ⟨disciplined_entry he hs, clearsInside_entry he hs hc⟩
  · exact fun _ _ _ _ _ _ ⟨hs, hc⟩ ha => ⟨disciplined_advances hs ha, clearsInside_advances hs hc ha⟩
  · intro r i u p ha hd hi ⟨hu, _⟩ hl
    exact ⟨disciplined_launch hi hu hl _,
      clearsInside_launch hi hu hl (fun b n w he => hn r u b n w ha (he ▸ hd)) _⟩

/-- Settles O54: discipline is kept by the entry, every micro-step and every launch, and with it the clearing inside
sections, INITIALIZE's launch aside. -/
theorem criticalDisciplineKept : Obligations.CriticalDisciplineKept :=
  ⟨fun _ _ => step_disciplined, fun _ hs hi => (hs.of_idle hi).2, fun _ _ => step_clearsInside⟩

/-! ### Reset (R37, R160) -/

theorem slotInv_resetWith (c : Cfg) : (State.resetWith c).slotInv :=
  ⟨rfl, ⟨.inl rfl, Nat.zero_le 61, rfl⟩, rfl, rfl, rfl, rfl⟩

theorem disciplined_resetWith (c : Cfg) : (State.resetWith c).disciplined :=
  (disciplined_iff_of_foreground rfl).2 ⟨rfl, rfl, rfl, trivial⟩

theorem windowInv_resetWith (c : Cfg) : (State.resetWith c).windowInv :=
  ⟨rfl, rfl, fun h => Bool.noConfusion h⟩

theorem awake_resetWith (c : Cfg) : (State.resetWith c).awake :=
  ⟨nofun, nofun, rfl, rfl⟩

/-- Settles O55, invariant by invariant. -/
theorem invariantsHoldAtReset : Obligations.InvariantsHoldAtReset :=
  fun c => ⟨slotInv_resetWith c, disciplined_resetWith c, (clearsInside_iff_of_foreground rfl).2 rfl, rfl,
    windowInv_resetWith c, awake_resetWith c⟩

/-! ### Fields that no rule reads (R15, R16, R56, R122) -/

/-- An outcome without the fields that no rule reads. -/
def readableOutcome : Host.Outcome State Fault Refusal → Host.Outcome State Fault Refusal
  | .next s => .next s.readable
  | .fault f => .fault f
  | .refused r => .refused r

theorem sameOutcome_iff (o o' : Host.Outcome State Fault Refusal) :
    sameOutcome o o' ↔ readableOutcome o = readableOutcome o' := by
  cases o <;> cases o' <;> simp [sameOutcome, readableOutcome]

/-- An operation that acts alike on a state and on the state without the fields that no rule reads. -/
def Blind (f : State → Host.Outcome State Fault Refusal) : Prop :=
  ∀ s, readableOutcome (f s) = readableOutcome (f s.readable)

theorem Blind.sameOutcome {f : State → Host.Outcome State Fault Refusal} (hf : Blind f) {s t : State}
    (h : s.readable = t.readable) : sameOutcome (f s) (f t) := by
  rw [sameOutcome_iff, hf s, hf t, h]

/-- The same choice between two agreeing pairs of outcomes. -/
theorem readableOutcome_ite (c : Prop) [Decidable c] {a b a' b' : Host.Outcome State Fault Refusal}
    (ha : readableOutcome a = readableOutcome a') (hb : readableOutcome b = readableOutcome b') :
    readableOutcome (if c then a else b) = readableOutcome (if c then a' else b') := by
  split
  · exact ha
  · exact hb

/-- The same choice between two agreeing pairs of states. -/
theorem readable_ite (c : Prop) [Decidable c] {a b a' b' : State} (ha : a.readable = a'.readable)
    (hb : b.readable = b'.readable) : (if c then a else b).readable = (if c then a' else b').readable := by
  split
  · exact ha
  · exact hb

theorem push_readable (s : State) (ctx : Context) (ms : List Micro) :
    (s.push ctx ms).readable = s.readable.push ctx ms := by
  cases ctx <;> rfl

/-- Agreeing states with the same positions put in front agree. -/
theorem readable_push {s t : State} {ctx : Context} {ms : List Micro} (h : s.readable = t.readable) :
    (s.push ctx ms).readable = (t.push ctx ms).readable := by
  rw [push_readable, push_readable, h]

theorem readable_clearField (f : SlotField) (s : State) :
    (runClearField f s).readable = (runClearField f s.readable).readable := by
  cases f <;> rfl

/-- Outcomes that go on to agreeing states agree. -/
theorem readableOutcome_next {s t : State} (h : s.readable = t.readable) :
    readableOutcome (.next s) = readableOutcome (.next t) :=
  congrArg Host.Outcome.next h

theorem readable_exitCritical (s : State) : s.exitCritical.readable = s.readable.exitCritical.readable := by
  unfold State.exitCritical
  cases h : s.saved with
  | nil => rw [show s.readable.saved = [] from h]; rfl
  | cons c outer => rw [show s.readable.saved = c :: outer from h]; rfl

theorem readable_runSetMode (ctx : Context) (t : BitVec 3) (s : State) :
    (runSetMode ctx t s).readable = (runSetMode ctx t s.readable).readable := by
  unfold runSetMode
  cases modeOf t with
  | none => rfl
  | some m => exact readable_ite _ rfl (readable_push rfl)

theorem blind_runApplyFilter (ctx : Context) (l t : Byte) : Blind (runApplyFilter ctx l t) := by
  intro s
  unfold runApplyFilter
  rw [show filterAccepts s.readable.promiscuous s.readable.localAddress t
    = filterAccepts s.promiscuous s.localAddress t from rfl]
  cases filterAccepts s.promiscuous s.localAddress t with
  | none => rfl
  | some b => cases b <;> exact readableOutcome_next (readable_push rfl)

theorem blind_runLoadFrame (ctx : Context) (t k : Byte) (p : List Byte) : Blind (runLoadFrame ctx t k p) := by
  intro s
  unfold runLoadFrame
  rw [show s.readable.localAddress = s.localAddress from rfl]
  cases s.localAddress with
  | none => rfl
  | some a => exact readableOutcome_next (readable_push rfl)

/-- No micro-step reads the fields left out. -/
theorem blind_runMicro (ctx : Context) (m : Micro) : Blind (runMicro ctx m) := by
  intro s
  cases m with
  | applyFilter l t => exact blind_runApplyFilter ctx l t s
  | loadFrame t k p => exact blind_runLoadFrame ctx t k p s
  | clearField f => exact readableOutcome_next (readable_clearField f s)
  | exitCritical => exact readableOutcome_next (readable_exitCritical s)
  | setMode t => exact readableOutcome_next (readable_runSetMode ctx t s)
  | modify a keep set =>
    exact readableOutcome_next (readable_push (s := s.regRead ctx a) (t := s.readable.regRead ctx a) rfl)
  | popTarget | popSender | popControl | captureSender | startWindow => exact readableOutcome_next (readable_push rfl)
  | waitIfSleep | restartIfStale | edgeGuard | edgeStatus =>
    exact readableOutcome_next (readable_ite _ (readable_push rfl) rfl)
  | waitModeReady | spinTest | waitLine => exact readableOutcome_next (readable_ite _ rfl (readable_push rfl))
  | receiveTest | canSendMode | canSendPending | canSendMeasure | ackSender | retryLoop | windowTest | windowPoll =>
    exact readableOutcome_next (readable_ite _ (readable_push rfl) (readable_push rfl))
  | popLength =>
    exact readableOutcome_next
      (readable_ite _ (readable_push rfl) (readable_ite _ (readable_push rfl) (readable_push rfl)))
  | openWindow => exact readableOutcome_next (readable_ite _ rfl rfl)
  | _ => rfl

/-- Agreeing outcomes both go on, to agreeing states, or are the same. -/
theorem readableOutcome_cases {o o' : Host.Outcome State Fault Refusal} (h : readableOutcome o = readableOutcome o') :
    (∃ s t, o = .next s ∧ o' = .next t ∧ s.readable = t.readable) ∨ o = o' := by
  cases o with
  | next s =>
    cases o' with
    | next t => exact .inl ⟨s, t, rfl, rfl, Host.Outcome.next.inj h⟩
    | fault f => cases h
    | refused r => cases h
  | fault f => cases o' <;> cases h; exact .inr rfl
  | refused r => cases o' <;> cases h; exact .inr rfl

theorem readable_takeInterrupt (s : State) (take : Bool) :
    (s.takeInterrupt take).readable = s.readable.takeInterrupt take :=
  apply_ite State.readable _ _ _

theorem readable_boundary (s : State) : s.boundary.readable = s.readable.boundary := by
  unfold State.boundary
  rw [show s.readable.env.boundaries = s.env.boundaries from rfl]
  cases s.env.boundaries with
  | nil => exact readable_takeInterrupt s true
  | cons b rest =>
    refine (readable_takeInterrupt _ b.take).trans (congrArg (State.takeInterrupt · b.take) ?_)
    exact apply_ite State.readable _ _ _

theorem blind_advance : Blind advance := by
  intro s
  cases hh : s.handler with
  | cons m rest =>
    rw [advance_irq hh, advance_irq (s := s.readable) hh]
    exact blind_runMicro .irq m { s with handler := rest }
  | nil =>
    cases hf : s.foreground with
    | cons m rest =>
      rw [advance_fg hh hf, advance_fg (s := s.readable) hh hf]
      exact blind_runMicro .fg m { s with foreground := rest }
    | nil => rw [advance_idle hh hf, advance_idle (s := s.readable) hh hf]; rfl

theorem blind_tick : Blind tick := by
  intro s
  unfold tick
  rw [← readable_boundary]
  exact blind_advance s.boundary

theorem blind_drive (n : Nat) : Blind (drive n) := by
  induction n with
  | zero => exact fun _ => rfl
  | succ n ih =>
    intro s
    refine readableOutcome_ite (s.halted = true) rfl ?_
    rcases readableOutcome_cases (blind_tick s) with ⟨u, v, hu, hv, h⟩ | h
    · rw [hu, hv]
      exact (sameOutcome_iff _ _).1 (ih.sameOutcome h)
    · rw [h]

theorem blind_launch (p : List Micro) : Blind (launch p) :=
  fun s => blind_drive _ { s with foreground := p, result := none }

theorem blind_command (o : Option Refusal) (p : List Micro) : Blind (command o p) := by
  intro s
  refine readableOutcome_ite _ rfl (readableOutcome_ite _ rfl (readableOutcome_ite _ rfl ?_))
  cases o with
  | none => exact blind_launch p s
  | some r => rfl

theorem blind_evaluate (a : Except Refusal Result) : Blind (evaluate a) := by
  intro s
  refine readableOutcome_ite _ rfl (readableOutcome_ite _ rfl ?_)
  cases a with
  | ok r => rfl
  | error e => rfl

theorem blind_readyEdge : Blind readyEdge :=
  fun s => readableOutcome_ite _ rfl (readableOutcome_ite _ (blind_drive _ s.edge.enterInterrupt) rfl)

theorem blind_exec (i : Instr) : Blind (exec i) := by
  intro s
  cases i with
  | initBlock b n w =>
    exact readableOutcome_ite _ rfl (readableOutcome_ite _ rfl (blind_launch (initBlock b n w) s.closeWindow))
  | sendWithRetry | receiveDone | ackReceived | receiveBegin => exact blind_command none _ s.closeWindow
  | setMode t =>
    have h := blind_command none [.setMode t, .finish false] (if t = 3 then s.closeWindow else s)
    rwa [apply_ite State.readable] at h
  | setAddress | promiscuous | send | sendAck | canSend => exact blind_command none _ s
  | setPowerLevel | setEncryptionKey | sendFrame => exact blind_command _ _ s
  | frameHeader | decode | ctlData | ctlDataAckreq | ctlAck | ctlAckAckreq => exact blind_evaluate (.ok _) s
  | encode | filter => exact blind_evaluate _ s
  | onReadyEdge => exact blind_readyEdge s
  | cmdUnassignedE | cmdUnassignedF => rfl

/-- A step does not read the fields left out: each equation of the step holds of both states. -/
theorem blind_step : Blind step := by
  intro s
  have hb := readable_boundary s
  have hidle : s.readable.boundary.idle = s.boundary.idle := hb ▸ rfl
  have hport : s.readable.boundary.port = s.boundary.port := hb ▸ rfl
  cases hf : s.faulted with
  | true => rw [step_faulted hf, step_faulted (s := s.readable) hf]
  | false =>
    cases hi : s.idle with
    | false =>
      rw [step_inFlight hf hi, step_inFlight (s := s.readable) hf hi]
      exact blind_drive _ s
    | true =>
      cases hbi : s.boundary.idle with
      | false =>
        rw [step_enters hf hi hbi, step_enters (s := s.readable) hf hi (hidle.trans hbi), ← hb]
        exact blind_drive _ s.boundary
      | true =>
        cases hp : s.boundary.port with
        | nil =>
          rw [step_waits hf hi hbi hp, step_waits (s := s.readable) hf hi (hidle.trans hbi) (hport.trans hp), ← hb]
          rfl
        | cons r rest =>
          have hbi' := hidle.trans hbi
          have hp' := hport.trans hp
          cases hd : decode r with
          | ok i =>
            rw [step_accepts hf hi hbi hp hd, step_accepts (s := s.readable) hf hi hbi' hp' hd, ← hb]
            exact blind_exec i { s.boundary with port := rest }
          | error e => rw [step_rejects hf hi hbi hp hd, step_rejects (s := s.readable) hf hi hbi' hp' hd]

/-- Settles O58: a step acts alike on a state and on the state without the fields left out. -/
theorem unreadFieldsPlayNoPart : Obligations.UnreadFieldsPlayNoPart :=
  fun _ _ h => blind_step.sameOutcome h

end Sys2Proof.Machine
end

section
/-! PROOFS of the memory's family (spec 20_memory.md): critical sections, and the event history over a step. -/

namespace Sys2Proof.Machine

/-- Settles O48: the enable that an `EnterCritical` saved is the innermost one, which `ExitCritical` restores. -/
theorem criticalSectionRestores : Obligations.CriticalSectionRestores :=
  fun s t => ⟨rfl, fun h => State.exitCritical_cons t s.irqEnabled s.saved h⟩

/-! ### The event history (R48, R56) -/

/-- The state `t` has the configuration of `s` and a history that continues the history of `s` (R56, R10). -/
def State.ContinuedBy (s t : State) : Prop :=
  t.cfg = s.cfg ∧ s.trace <+: t.trace

theorem State.ContinuedBy.refl (s : State) : s.ContinuedBy s :=
  ⟨rfl, List.prefix_refl s.trace⟩

theorem State.ContinuedBy.trans {s t u : State} (h : s.ContinuedBy t) (h' : t.ContinuedBy u) : s.ContinuedBy u :=
  ⟨h'.1.trans h.1, h.2.trans h'.2⟩

/-- A micro-step continues the history of the state it starts from: its transactions go to the end (R48). -/
theorem Changes.continuedBy {m : Micro} {s t : State} (h : Changes m s t) : s.ContinuedBy t :=
  ⟨h.cfg, h.trace⟩

/-- A step continues the history of the state it starts from: the interrupt's entry, a launch and the host's and the
schedule's fields touch neither the history nor the configuration. -/
theorem step_continuedBy {s t : State} (h : step s = .next t) : s.ContinuedBy t :=
  step_keeps (P := s.ContinuedBy) (fun _ _ _ _ _ hu => hu) (fun _ _ hu => hu)
    (fun _ _ _ _ _ _ hu ha => hu.trans ha.changes.continuedBy) (fun _ _ _ _ _ _ _ hu _ => hu) (.refl s) h

/-- Settles O57: every micro-step continues the history, and nothing else in a step touches it. -/
theorem historyOnlyGrows : Obligations.HistoryOnlyGrows :=
  fun _ _ => step_continuedBy

end Sys2Proof.Machine
end

section
/-! PROOFS of the encoding's family (spec 30_encoding.md): the decoder against the encoder, the words of the opcode
table, what the codec's rows answer, and how an instruction is admitted. -/

namespace Sys2Proof

/-! ### Control bytes (R68) -/

/-- Bit 7 of a control byte is the upper bit of its kind. -/
@[simp] theorem encodeControl_getElem_seven (kind : BitVec 2) (low : BitVec 6) :
    (encodeControl kind low)[7] = kind[1] :=
  BitVec.getElem_append (by decide)

/-- Bit 6 of a control byte is the lower bit of its kind. -/
@[simp] theorem encodeControl_getElem_six (kind : BitVec 2) (low : BitVec 6) :
    (encodeControl kind low)[6] = kind[0] :=
  BitVec.getElem_append (by decide)

/-- Bits 5:0 of a control byte are the ones it was built from. -/
@[simp] theorem encodeControl_extractLsb' (kind : BitVec 2) (low : BitVec 6) :
    (encodeControl kind low).extractLsb' 0 6 = low :=
  BitVec.extractLsb'_append_eq_right

/-! ### The decoder against the encoder -/

/-- Every instruction comes back from its encoding, also one whose operands R76 refuses: the decoder passes operands on
as they are. -/
theorem decode_encode (i : Instr) : decode (encode i) = .ok i := by
  cases i with
  | initBlock | setAddress | setPowerLevel | promiscuous | send | sendWithRetry | receiveDone | ackReceived | sendAck
  | setEncryptionKey | setMode | canSend | receiveBegin | sendFrame | cmdUnassignedE | cmdUnassignedF => rfl
  | onReadyEdge => rfl
  | encode | decode | filter => rfl
  | frameHeader l t s a b => exact congrArg Except.ok (decodeHeader_encodeHeader l t s a b)
  | ctlData | ctlDataAckreq | ctlAck | ctlAckAckreq => simp [encode, decode, decodeControl]

/-- Settles O6: every instruction comes back from its encoding, the well-formed ones among them. -/
theorem instructionRoundTrip : Obligations.InstructionRoundTrip :=
  fun i _ => decode_encode i

/-! ### The words of the opcode table -/

/-- A table word stands for an instruction exactly where its request decodes to it. -/
theorem decodeTableWord_eq_some_iff {nbits w : Nat} {i : Instr} :
    decodeTableWord nbits w = some i ↔ decode (tableRequest nbits w) = .ok i := by
  unfold decodeTableWord
  cases decode (tableRequest nbits w) <;> simp

/-- Settles O2: each word is closed, and the decoder computes its instruction. -/
theorem tableWordsDecode : Obligations.TableWordsDecode :=
  ⟨rfl, rfl, rfl, rfl, rfl, rfl, rfl, rfl, rfl, rfl, rfl, rfl⟩

end Sys2Proof

namespace Sys2Proof.Machine

/-! ### A presented request -/

/-- No interrupt stands before a presented request: none is pending, and no edge is scheduled (log entry 13). -/
@[simp] theorem State.boundary_present (s : State) (r : Request) : (s.present r).boundary = s.present r := by
  simp [State.boundary, State.takeInterrupt, State.present]

/-- A presented request is the one the next step runs, off the port again (R70). -/
theorem step_present {s : State} {r : Request} {i : Instr} (hf : s.faulted = false) (hd : decode r = .ok i) :
    step (s.present r) = exec i { s.present r with port := s.port } := by
  have h := step_accepts (s := s.present r) (rest := s.port) hf rfl (by rw [State.boundary_present]; rfl)
    (by rw [State.boundary_present]; rfl) hd
  rwa [State.boundary_present] at h

/-- Settles O4: presenting a table word presents its request. -/
theorem tableWordRunsNext : Obligations.TableWordRunsNext :=
  fun _ _ _ _ hf hw => step_present hf (decodeTableWord_eq_some_iff.1 hw)

/-! ### What the codec's rows answer -/

/-- An idle block answers the codec's functions, and nothing but the result changes (log entry 8). -/
theorem evaluate_idle {s : State} (hf : s.faulted = false) (hi : s.idle = true) (r : Result) :
    evaluate (.ok r) s = .next { s with result := some r } := by
  simp [evaluate, hf, hi]

theorem lengthMalformed_iff (l : Byte) : lengthMalformed l = true ↔ l.toNat < 3 :=
  decide_eq_true_iff

theorem lengthOversize_iff (l : Byte) : lengthOversize l = true ↔ 64 < l.toNat :=
  decide_eq_true_iff

/-- A payload length exists for the lengths that are neither malformed nor oversize (R61, R69). -/
theorem headerOf_payloadLength (l t sn : Byte) (rp rq : Bool) :
    (headerOf l t sn rp rq).payloadLength = if 3 ≤ l.toNat ∧ l.toNat ≤ 64 then some (l - 3) else none := by
  have h : (lengthMalformed l || lengthOversize l) = true ↔ ¬(3 ≤ l.toNat ∧ l.toNat ≤ 64) := by
    rw [Bool.or_eq_true, lengthMalformed_iff, lengthOversize_iff]
    omega
  simp only [headerOf, h, ite_not, payloadLengthOf]

/-- Settles O14: the header's fields are its operands, but for the payload length. -/
theorem frameHeaderAnswers : Obligations.FrameHeaderAnswers := by
  intro s l t sn rp rq hf hi
  rw [← headerOf_payloadLength l t sn rp rq]
  exact evaluate_idle hf hi _

/-- The flags of a control byte are the two bits of its kind (R68, R92). -/
theorem controlResult_encodeControl (kind : BitVec 2) (low : BitVec 6) :
    controlResult (encodeControl kind low) = .control kind[1] kind[0] := by
  simp [controlResult, controlAckReply, controlAckRequest]

/-- Settles O15: each of the four rows answers the two bits of its kind. -/
theorem controlKindsAnswer : Obligations.ControlKindsAnswer := by
  intro s low hf hi
  have h (kind : BitVec 2) : evaluate (.ok (controlResult (encodeControl kind low))) s =
      .next { s with result := some (.control kind[1] kind[0]) } := by
    rw [controlResult_encodeControl, evaluate_idle hf hi]
  exact ⟨h 0b00#2, h 0b01#2, h 0b10#2, h 0b11#2⟩

/-! ### Admission (R70, R76, R174) -/

/-- An operand out of its range is refused once INITIALIZE has run, whatever the interrupt (R76). -/
theorem command_outOfRange {s : State} (hf : s.faulted = false) (hi : s.idle = true) (hn : s.initialized = true)
    (r : Refusal) (p : List Micro) : command (some r) p s = .refused r := by
  simp [command, hf, hi, hn]

/-- Before INITIALIZE a command is refused for that, whatever its operands (log entry 27). -/
theorem command_notInitialized {s : State} (hf : s.faulted = false) (hi : s.idle = true) (hn : s.initialized = false)
    (o : Option Refusal) (p : List Micro) : command o p s = .refused .notInitialized := by
  simp [command, hf, hi, hn]

/-- No command is admitted while one is in flight (log entry 12). -/
theorem command_inFlight {s : State} (hf : s.faulted = false) (hi : s.idle = false) (o : Option Refusal)
    (p : List Micro) : command o p s = .refused .commandInFlight := by
  simp [command, hf, hi]

/-- No codec request is answered while an operation is in flight (log entry 12). -/
theorem evaluate_inFlight {s : State} (hf : s.faulted = false) (hi : s.idle = false) (a : Except Refusal Result) :
    evaluate a s = .refused .commandInFlight := by
  simp [evaluate, hf, hi]

/-- The ways an instruction is admitted: INITIALIZE by its own test; every other command by `command`, its reading
window open or closed; the codec's rows by `evaluate`; the event whatever is in flight; the unassigned opcodes never. -/
inductive Admission (s : State) (i : Instr) : Prop
  | init (band nodeId networkId : Byte) (hi : i = .initBlock band nodeId networkId)
  | command (o : Option Refusal) (p : List Micro) (w : Bool) (hn : needsInit i = true)
      (h : exec i s = command o p { s with window := w })
  | codec (a : Except Refusal Result) (hn : needsInit i = false) (h : exec i s = evaluate a s)
  | event (hi : i = .onReadyEdge)
  | unassigned (hi : i = .cmdUnassignedE ∨ i = .cmdUnassignedF)

/-- Every instruction is admitted in one of these ways. -/
theorem exec_admission (i : Instr) (s : State) : Admission s i := by
  cases i with
  | initBlock b n w => exact .init b n w rfl
  | setAddress | promiscuous | send | sendAck | canSend => exact .command none _ s.window rfl rfl
  | setPowerLevel | setEncryptionKey | sendFrame => exact .command _ _ s.window rfl rfl
  | sendWithRetry | receiveDone | ackReceived | receiveBegin => exact .command none _ false rfl rfl
  | setMode t =>
    refine .command none [.setMode t, .finish false] (if t = 3 then false else s.window) rfl ?_
    change command none _ (if t = 3 then s.closeWindow else s) = _
    split <;> rfl
  | frameHeader | decode | ctlData | ctlDataAckreq | ctlAck | ctlAckAckreq => exact .codec (.ok _) rfl rfl
  | encode | filter => exact .codec _ rfl rfl
  | onReadyEdge => exact .event rfl
  | cmdUnassignedE => exact .unassigned (.inl rfl)
  | cmdUnassignedF => exact .unassigned (.inr rfl)

/-- Every command but INITIALIZE is refused before INITIALIZE (R76). -/
theorem exec_notInitialized {i : Instr} {s : State} (hc : needsInit i = true) (hf : s.faulted = false)
    (hi : s.idle = true) (hn : s.initialized = false) : exec i s = .refused .notInitialized := by
  cases exec_admission i s with
  | command o p w _ h => exact h.trans (command_notInitialized (s := { s with window := w }) hf hi hn o p)
  | codec a hn' _ => rw [hc] at hn'; cases hn'
  | init b n w h => subst h; cases hc
  | event h => subst h; cases hc
  | unassigned h => rcases h with rfl | rfl <;> cases hc

/-- Settles O17, by the ways an instruction is admitted: all but the event's test that nothing is in flight. -/
theorem oneCommandInFlight : Obligations.OneCommandInFlight := by
  intro s i hf hi hedge hE hF
  cases exec_admission i s with
  | init b n w h => subst h; simp [exec, execInitBlock, hf, hi]
  | command o p w _ h => exact h.trans (command_inFlight (s := { s with window := w }) hf hi o p)
  | codec a _ h => exact h.trans (evaluate_inFlight hf hi a)
  | event h => exact absurd h hedge
  | unassigned h => exact absurd h (not_or.2 ⟨hE, hF⟩)

theorem levelInRange_eq_false {level : Byte} (h : 31 < level.toNat) : levelInRange level = false :=
  decide_eq_false (Nat.not_le.2 h)

theorem keyLengthOk_eq_false {k : List Byte} (h : k.length ≠ 16) : keyLengthOk (some k) = false :=
  beq_false_of_ne h

/-- Settles O16: `command` tests INITIALIZE first, and then what each of the three commands says of its operands. -/
theorem commandsRefused : Obligations.CommandsRefused := by
  intro s
  refine ⟨rfl, rfl, fun hf hi => ⟨fun i hc hn => exec_notInitialized hc hf hi hn, ?_, ?_, ?_⟩⟩
  · intro level hl hn
    change execSetPowerLevel level s = _
    rw [execSetPowerLevel, levelInRange_eq_false hl]
    exact command_outOfRange hf hi hn .powerLevelRange _
  · intro k hk hn
    change execSetEncryptionKey (some k) s = _
    rw [execSetEncryptionKey, keyLengthOk_eq_false hk]
    exact command_outOfRange hf hi hn .keyLength _
  · intro t p hn
    exact command_outOfRange hf hi hn .bothAckFlags (sendFrame s.cfg t p true true ++ [.finish false])

end Sys2Proof.Machine
end

section
/-! PROOFS of the mode machine's family (spec 40_mode_state_machine.md): the way to Sleep and FrequencySynthesis, SET_MODE
from every mode to every target, and the mode-ready wait. -/

namespace Sys2Proof.Machine

/-! ### Induction over one instruction -/

/-- An invariant of the interrupt's entry and of every micro-step that the host's and the schedule's fields do not touch
is kept by an instruction whose launch keeps it. -/
theorem exec_keeps {P : State → Prop} (houtside : ∀ s p l r q, P s → P (s.outside p l r q))
    (hentry : ∀ s : State, s.irqEnabled = true → P s → P s.enterInterrupt)
    (hadv : ∀ ctx m ms rest (s t : State), P s → Advances ctx m ms rest s t → P t) {i : Instr} {s t : State}
    (hlaunch : ∀ p : List Micro, s.idle = true → Launches i s p →
      P { s with window := s.window && keepsWindow i, foreground := p })
    (hs : P s) (h : exec i s = .next t) : P t := by
  have hbound : ∀ s, P s → P s.boundary := by
    intro s hs
    rcases boundary_cases s with ⟨p, l, h⟩ | ⟨he, l, h⟩
    · exact h ▸ houtside s p l s.result s.port hs
    · exact h ▸ houtside _ false l s.result s.port (hentry s he hs)
  have htick : ∀ s t, P s → tick s = .next t → P t := by
    intro s t hs h
    rcases advance_advances h with rfl | ⟨ctx, m, ms, rest, ha⟩
    · exact hbound s hs
    · exact hadv ctx m ms rest s.boundary t (hbound s hs) ha
  have hedge : P s.edge := houtside s true s.env.boundaries s.result s.port hs
  exact exec_inv htick (fun s r q hs => houtside s s.irqPending s.env.boundaries r q hs) hlaunch
    ⟨hedge, fun he => hentry s.edge he hedge⟩ hs h

/-! ### The way to Sleep and FrequencySynthesis (R85, R154) -/

/-- A mode that only SET_MODE of its code enters (R85). -/
def dormant (m : RadioMode) : Prop :=
  m = .sleep ∨ m = .frequencySynthesis

/-- A recognized target other than the codes 0 and 2 is not dormant (R72). -/
theorem not_dormant_of_modeOf {t : BitVec 3} {m : RadioMode} (h : modeOf t = some m)
    (ht : (Micro.setMode t).staysAwake = true) : ¬dormant m := by
  rintro (rfl | rfl) <;> revert t <;> decide

theorem staysAwake_storeMode_iff {m : RadioMode} : (Micro.storeMode m).staysAwake = true ↔ ¬dormant m := by
  simp [Micro.staysAwake, dormant]

/-- The transition of a recognized target other than the codes 0 and 2 stays awake (R80). -/
theorem transition_staysAwake {t : BitVec 3} {m : RadioMode} (h : modeOf t = some m)
    (ht : (Micro.setMode t).staysAwake = true) (c : Cfg) : (transition c m).all Micro.staysAwake = true := by
  rw [transition_all (fun _ _ => rfl), staysAwake_storeMode_iff.2 (not_dormant_of_modeOf h ht)]
  rfl

/-- Only a position on the way to a dormant mode leads to one (R85). -/
theorem Follows.staysAwake {m : Micro} {ms : List Micro} (h : Follows m ms) (hm : m.staysAwake = true) :
    ms.all Micro.staysAwake = true := by
  cases h with
  | setMode c t r hr => exact transition_staysAwake hr hm c
  | loadFrame c t k p bytes => exact (sendFrameBody_all (fun _ _ => rfl) c bytes).trans rfl
  | popControl l t sn k => simp [Micro.staysAwake, List.all_map]
  | _ => rfl

/-- No command's program but SET_MODE's of the codes 0 and 2 is on the way to a dormant mode (R85). -/
theorem Launches.staysAwake {i : Instr} {s : State} {p : List Micro} (h : Launches i s p) (h0 : i ≠ .setMode 0)
    (h2 : i ≠ .setMode 2) : p.all Micro.staysAwake = true := by
  cases h with
  | setMode s t =>
    have ht : (Micro.setMode t).staysAwake = true :=
      Bool.and_eq_true_iff.2 ⟨bne_iff_ne.2 fun h => h0 (h ▸ rfl), bne_iff_ne.2 fun h => h2 (h ▸ rfl)⟩
    rw [List.all_cons, ht]
    rfl
  | setEncryptionKey s k =>
    rw [List.all_append, setEncryptionKey_all (fun _ _ => rfl) (fun _ _ _ => rfl)]
    rfl
  | _ => rfl

/-- In no dormant mode but possibly `o`, and nothing in flight on the way to one. -/
def State.awakeBut (o : RadioMode) (s : State) : Prop :=
  (dormant s.mode → s.mode = o) ∧ s.foreground.all Micro.staysAwake = true ∧ s.handler.all Micro.staysAwake = true

/-- An awake block is one that is in no dormant mode but possibly Standby, which is none. -/
theorem State.awake_iff (s : State) : s.awake ↔ s.awakeBut .standby := by
  have h : (dormant s.mode → s.mode = .standby) ↔ s.mode ≠ .sleep ∧ s.mode ≠ .frequencySynthesis := by
    cases s.mode <;> simp [dormant]
  rw [State.awakeBut, h, and_assoc]

theorem State.awakeBut_iff (o : RadioMode) (s : State) (ctx : Context) :
    s.awakeBut o ↔ (dormant s.mode → s.mode = o) ∧ (s.pos ctx).all Micro.staysAwake = true
      ∧ (s.pos ctx.other).all Micro.staysAwake = true := by
  cases ctx with
  | fg => exact Iff.rfl
  | irq => exact and_congr_right' and_comm

/-- The interrupt context starts with nothing on the way to a dormant mode (R148). -/
theorem awakeBut_entry {o : RadioMode} {s : State} (hs : s.awakeBut o) : s.enterInterrupt.awakeBut o := by
  obtain ⟨hm, hf, hh⟩ := hs
  refine ⟨hm, hf, ?_⟩
  change (handlerProgram ++ s.handler).all Micro.staysAwake = true
  rw [List.all_append, hh]
  rfl

/-- A micro-step of either context stays awake: the mode it stores is not dormant. -/
theorem awakeBut_advances {o : RadioMode} {ctx : Context} {m : Micro} {ms rest : List Micro} {s t : State}
    (hs : s.awakeBut o) (ha : Advances ctx m ms rest s t) : t.awakeBut o := by
  obtain ⟨hm, hp, ho⟩ := (s.awakeBut_iff o ctx).1 hs
  rw [ha.before, List.all_cons, Bool.and_eq_true] at hp
  refine (t.awakeBut_iff o ctx).2 ⟨fun hd => ?_, ?_, ?_⟩
  · rcases ha.changes.mode with h | rfl
    · rw [h] at hd ⊢
      exact hm hd
    · exact absurd hd (staysAwake_storeMode_iff.1 hp.1)
  · rw [ha.after, List.all_append, ha.follows.staysAwake hp.1, hp.2]
    rfl
  · rwa [ha.other]

theorem awakeBut_launch {o : RadioMode} {i : Instr} {u : State} {p : List Micro}
    (hm : dormant u.mode → u.mode = o) (hh : u.handler.all Micro.staysAwake = true) (hl : Launches i u p)
    (h0 : i ≠ .setMode 0) (h2 : i ≠ .setMode 2) (w : Bool) :
    State.awakeBut o { u with window := w, foreground := p } :=
  ⟨hm, hl.staysAwake h0 h2, hh⟩

/-- An awake block stays so over a step that accepts no SET_MODE of the codes 0 and 2 (R85, R154). -/
theorem step_awake {s t : State} (hs : s.awake)
    (hn : ∀ r u, s.activity = .accept r u → decode r ≠ .ok (.setMode 0) ∧ decode r ≠ .ok (.setMode 2))
    (h : step s = .next t) : t.awake := by
  refine t.awake_iff.2 (step_keeps (P := State.awakeBut .standby) (fun _ _ _ _ _ h => h) (fun _ _ => awakeBut_entry)
    (fun _ _ _ _ _ _ => awakeBut_advances) (fun r i u p ha hd _ hu hl => ?_) (s.awake_iff.1 hs) h)
  obtain ⟨h0, h2⟩ := hn r u ha
  obtain ⟨hm, -, hh⟩ := hu
  exact awakeBut_launch hm hh hl (fun hi => h0 (hi ▸ hd)) (fun hi => h2 (hi ▸ hd)) _

/-- An instruction other than SET_MODE of the codes 0 and 2 ends in a dormant mode only if it started there. -/
theorem exec_dormant {i : Instr} {s t : State} (hi : s.idle = true) (h0 : i ≠ .setMode 0) (h2 : i ≠ .setMode 2)
    (h : exec i s = .next t) (hd : dormant t.mode) : t.mode = s.mode := by
  obtain ⟨hf, hh⟩ : s.foreground = [] ∧ s.handler = [] := by simpa [State.idle] using hi
  have hs : s.awakeBut s.mode := ⟨fun _ => rfl, by rw [hf]; rfl, by rw [hh]; rfl⟩
  have ht := exec_keeps (P := State.awakeBut s.mode) (fun _ _ _ _ _ h => h) (fun _ _ => awakeBut_entry)
    (fun _ _ _ _ _ _ => awakeBut_advances)
    (fun _ _ hl => awakeBut_launch (fun _ => rfl) (by rw [hh]; rfl) hl h0 h2 _) hs h
  exact ht.1 hd

/-- Settles O59: no micro-step and no launch but SET_MODE's of the codes 0 and 2 leads to a dormant mode. -/
theorem sleepOnlyBySetMode : Obligations.SleepOnlyBySetMode :=
  ⟨fun _ _ => step_awake, fun _ _ _ => exec_dormant⟩

/-! ### SET_MODE (R80 to R83) -/

/-- The operand codes of the modes read back (R72). -/
theorem modeOf_modeCode (m : RadioMode) : modeOf (modeCode m) = some m := by
  cases m <;> rfl

/-- The codes 5, 6 and 7 are no mode (R72, R82). -/
theorem modeOf_unrecognized : ∀ t : BitVec 3, 5 ≤ t.toNat → modeOf t = none := by
  decide

/-- The code 3 is Receive's (R72). -/
theorem modeCode_bne_three (m : RadioMode) : (modeCode m != 3) = (m != .receive) := by
  cases m <;> rfl

/-- `SetMode` of the current mode is a no-op, also in Sleep (R80 line 2). -/
theorem reaches_setMode_self {ctx : Context} {s : State} {rest : List Micro} (h : s.running ctx) {t : BitVec 3}
    (ht : modeOf t = some s.mode) : Reaches 1 (s.atPos ctx (.setMode t :: rest)) (s.atPos ctx rest) :=
  reaches_micro h (by simp [runMicro, runSetMode, ht])

/-- `SetMode(t)` for a recognized target, where a transition's wait ends: its cost has a bound of its own (R80, R81). -/
theorem reaches_setMode_bounded {ctx : Context} {s : State} {rest : List Micro} (h : s.running ctx) {t : BitVec 3}
    {m : RadioMode} (ht : modeOf t = some m) {n : Nat} (hw : s.mode ≠ m → s.wakes s.mode 1 n) :
    Reaches (setModeCost s.cfg pollBound) (s.atPos ctx (.setMode t :: rest))
      (((s.io (s.setModeEvents ctx s.mode m 0 n) (setModeReads s.mode m n)).inMode m).atPos ctx rest) := by
  by_cases hm : s.mode = m
  · subst hm
    have hs : (s.io (s.setModeEvents ctx s.mode s.mode 0 n) (setModeReads s.mode s.mode n)).inMode s.mode = s := by
      simp [State.setModeEvents, setModeReads, State.inMode]
    rw [hs]
    exact (reaches_setMode_self h ht).mono (by unfold setModeCost; omega)
  · obtain ⟨k, hk, hwk, hr⟩ := State.wakes_bounded (hw hm)
    rw [← State.setModeEvents_congr hr, ← setModeReads_congr hr]
    exact (reaches_setMode h t m ht k hwk).mono (by unfold setModeCost; omega)

/-- A ready block has no command in flight (R161). -/
theorem foreground_of_ready {s : State} (h : s.ready) : s.foreground = [] := by
  obtain ⟨⟨-, hfg, -⟩, -⟩ := h
  exact hfg

/-- A ready block launches SET_MODE, the reading window closed by the code 3 (R104). -/
theorem exec_setMode_ready {s : State} (h : s.ready) (t : BitVec 3) :
    exec (.setMode t) s = launch [.setMode t, .finish false] { s with window := s.window && t != 3 } := by
  have hw : (if t = 3 then s.closeWindow else s) = { s with window := s.window && t != 3 } := by
    by_cases ht : t = 3
    · simp [ht, State.closeWindow]
    · rw [if_neg ht, bne_iff_ne.2 ht, Bool.and_true]
  change command none _ (if t = 3 then s.closeWindow else s) = _
  rw [hw]
  exact command_ready (s := { s with window := s.window && t != 3 }) h _

/-- SET_MODE of a ready block answers with the state in which `SetMode` comes to its end within the budget. -/
theorem exec_setMode_reaches {s u : State} {t : BitVec 3} {b : Nat} (h : s.ready)
    (hr : Reaches b (({ s with window := s.window && t != 3, result := none } : State).atPos .fg
      (.setMode t :: [.finish false])) (u.atPos .fg [.finish false]))
    (hu : u.running .fg) (hb : b + 1 ≤ stepBudget s.cfg) :
    exec (.setMode t) s = .next { u with result := some .unit, foreground := [] } := by
  rw [exec_setMode_ready h]
  exact launch_finishes (s := { s with window := s.window && t != 3 }) false hr hu hb

/-- Settles O23: a self-pair is a no-op, and every other pair is the transition. -/
theorem setModeMakesTheTransition : Obligations.SetModeMakesTheTransition := by
  intro s m n h hw
  have hrun := running_launched (s := { s with window := s.window && modeCode m != 3 }) h.1
  have hcost : setModeCost s.cfg pollBound + 1 ≤ stepBudget s.cfg := by
    have := cost_le_budget s.cfg (10 + pollBound) 1 (by decide) (by decide)
    unfold setModeCost
    omega
  rw [exec_setMode_reaches h (reaches_setMode_bounded hrun (modeOf_modeCode m) hw) hrun hcost, modeCode_bne_three,
    ← foreground_of_ready h]
  rfl

/-- Settles O24: the codes by evaluation, and the unrecognized ones by `SetMode`'s first line. -/
theorem unrecognizedModeIsNoOp : Obligations.UnrecognizedModeIsNoOp := by
  refine ⟨⟨rfl, rfl, rfl, rfl, rfl⟩, modeOf_unrecognized, modeOf_modeCode, fun s t ht h => ?_⟩
  have hrun := running_launched (s := { s with window := s.window && t != 3 }) h.1
  have ht3 : (t != 3) = true := bne_iff_ne.2 (by rintro rfl; exact absurd ht (by decide))
  rw [exec_setMode_reaches h (reaches_setMode_unrecognized hrun t (modeOf_unrecognized t ht)) hrun
    (small_le_budget s.cfg 2 (by decide)), ht3, Bool.and_true, ← foreground_of_ready h]

/-! ### The mode-ready wait (R84, R170) -/

/-- A read that does not report mode-ready asks for another (R80 line 10). -/
theorem runs_waitModeReady_again {ctx : Context} {s : State} {rest : List Micro} (h : s.running ctx)
    (hno : s.readAt 0 &&& s.cfg.regmap.bModeReady = 0) :
    Runs 1 (s.atPos ctx (.waitModeReady :: rest))
      ((s.io [rd ctx s.cfg.regmap.aIrq1 (s.readAt 0)] 1).atPos ctx (.waitModeReady :: rest)) := by
  intro n
  rw [drive_micro s ctx _ rest n h]
  simp [runMicro, runWaitModeReady, State.regRead_eq, State.readAnswer_eq, statusSet, hno]

/-- While mode-ready is not reported the wait goes on, one read for each micro-step (R170). -/
theorem runs_waitModeReady {ctx : Context} {s : State} {rest : List Micro} (h : s.running ctx) (n : Nat)
    (hno : ∀ k < n, s.readAt k &&& s.cfg.regmap.bModeReady = 0) :
    Runs n (s.atPos ctx (.waitModeReady :: rest))
      ((s.io ((List.range n).map (fun k => rd ctx s.cfg.regmap.aIrq1 (s.readAt k))) n).atPos ctx
        (.waitModeReady :: rest)) := by
  induction n generalizing s with
  | zero => intro n; simp
  | succ n ih =>
    intro j
    have hfirst := runs_waitModeReady_again (rest := rest) h (hno 0 n.succ_pos)
    have hrest := ih (s := s.io [rd ctx s.cfg.regmap.aIrq1 (s.readAt 0)] 1) h
      (fun k hk => by simpa [Nat.add_comm] using hno (k + 1) (by omega))
    rw [show j + (n + 1) = j + n + 1 from rfl, hfirst, hrest]
    simp [List.range_succ_eq_map, Function.comp_def, Nat.add_comm 1]

/-- Settles O25, by induction on the number of reads. -/
theorem modeReadyWaitHasNoTimeout : Obligations.ModeReadyWaitHasNoTimeout := by
  intro s rest n hf hq hh hno
  have h := runs_waitModeReady (ctx := .fg) (rest := rest) ⟨hq, hf, fun _ => hh⟩ n hno 0
  rwa [Nat.zero_add] at h

end Sys2Proof.Machine
end

section
/-! PROOFS of the frame codec's family (spec 41_frame_codec.md): the bytes of an encoded frame, the answers of `Decode`,
the round trip of the two, the address filter, and the table rows that answer with them. -/

namespace Sys2Proof.Machine

/-! ### Reading a list of bytes (R91) -/

theorem byteAt_eq_getElem {bytes : List Byte} {i : Nat} (h : i < bytes.length) : byteAt bytes i = bytes[i] := by
  simp [byteAt, h]

@[simp] theorem byteAt_cons_zero (b : Byte) (bytes : List Byte) : byteAt (b :: bytes) 0 = b :=
  rfl

/-- Where a list holds `n` bytes from offset `k` on, reading them one by one gives that part of it. -/
theorem map_byteAt_eq_take_drop {bytes : List Byte} {k n : Nat} (h : k + n ≤ bytes.length) :
    (List.range n).map (fun i => byteAt bytes (k + i)) = (bytes.drop k).take n := by
  refine List.ext_getElem (by simp; omega) fun i hi _ => ?_
  have hin : i < n := by simpa using hi
  simp [byteAt_eq_getElem (show k + i < bytes.length by omega)]

/-! ### `Decode` (R91, R92) -/

theorem decodeFrame_malformed {l : Byte} (h : l.toNat < 3) (b : List Byte) : decodeFrame (l :: b) = .malformed :=
  if_pos ((lengthMalformed_iff l).2 h)

theorem decodeFrame_oversize {l : Byte} (h : 64 < l.toNat) (b : List Byte) : decodeFrame (l :: b) = .oversize :=
  (if_neg (mt (lengthMalformed_iff l).1 (by omega))).trans (if_pos ((lengthOversize_iff l).2 h))

/-- A valid length byte with enough bytes behind it: the fields are the bytes in their order (R91). -/
theorem decodeFrame_frame {l : Byte} (t sn c : Byte) {rest : List Byte} (h3 : 3 ≤ l.toNat) (h64 : l.toNat ≤ 64)
    (hrest : l.toNat - 3 ≤ rest.length) :
    decodeFrame (l :: t :: sn :: c :: rest) =
      .frame {
        pendingLength := l
        payloadLength := payloadLengthOf l
        targetAddress := t
        senderAddress := sn
        ackReply := controlAckReply c
        ackRequest := controlAckRequest c
        payload := rest.take (l.toNat - 3) } := by
  have hm : ¬lengthMalformed l = true := mt (lengthMalformed_iff l).1 (by omega)
  have ho : ¬lengthOversize l = true := mt (lengthOversize_iff l).1 (by omega)
  have hp := map_byteAt_eq_take_drop (bytes := l :: t :: sn :: c :: rest) (k := 4) (n := l.toNat - 3)
    (by simp only [List.length_cons]; omega)
  rw [decodeFrame, byteAt_cons_zero, if_neg hm, if_neg ho, payloadLengthOf_toNat h3, hp]
  rfl

/-- Settles O8, branch by branch of the length test. -/
theorem decodeFrameCases : Obligations.DecodeFrameCases :=
  fun _ t sn c _ =>
    ⟨fun b h => decodeFrame_malformed h b, fun b h => decodeFrame_oversize h b, decodeFrame_frame t sn c⟩

/-! ### `Encode`, and its round trip (R90, R94) -/

/-- The length byte counts the header and the payload that is kept (R61, R66). -/
theorem lengthByte_eq (p : List Byte) : lengthByte p = BitVec.ofNat 8 (3 + min p.length 61) := by
  rw [lengthByte, truncated, List.length_take, Nat.min_comm]
  rfl

/-- Settles O7: all but the length byte is `Encode` as written. -/
theorem encodeFrameBytes : Obligations.EncodeFrameBytes :=
  fun t s c p => congrArg (· :: t :: s :: c :: p.take 61) (lengthByte_eq p)

/-- A payload that fits is kept whole (R66). -/
theorem encodeFrame_of_length_le (t s c : Byte) {p : List Byte} (h : p.length ≤ 61) :
    encodeFrame t s c p = BitVec.ofNat 8 (3 + p.length) :: t :: s :: c :: p := by
  rw [encodeFrameBytes t s c p, Nat.min_eq_left h, List.take_of_length_le h]

/-- The payload length of the length byte `3 + n` is `n` (R67). -/
theorem payloadLengthOf_ofNat (n : Nat) : payloadLengthOf (BitVec.ofNat 8 (3 + n)) = BitVec.ofNat 8 n := by
  rw [payloadLengthOf, BitVec.ofNat_add, BitVec.add_comm]
  exact BitVec.add_sub_cancel _ _

/-- Settles O9: the length byte of a payload that fits is valid, and exactly the payload stands behind the header. -/
theorem frameRoundTrip : Obligations.FrameRoundTrip := by
  intro t s c p hp
  have hl : (BitVec.ofNat 8 (3 + p.length)).toNat = 3 + p.length := by
    rw [BitVec.toNat_ofNat]
    omega
  rw [encodeFrame_of_length_le t s c hp, decodeFrame_frame t s c (by omega) (by omega) (by omega),
    payloadLengthOf_ofNat, hl, Nat.add_sub_cancel_left, List.take_length]
  rfl

/-! ### The address filter (R93) -/

theorem filterAccepts_promiscuous (a : Option Byte) (t : Byte) : filterAccepts true a t = some true :=
  rfl

theorem filterAccepts_selective (a t : Byte) : filterAccepts false (some a) t = some (decide (t = a ∨ t = 0)) := by
  rw [Bool.decide_or]
  rfl

/-- Settles O10: the filter's first test, and its comparison with the local address and the broadcast address 0. -/
theorem filterTruthTable : Obligations.FilterTruthTable :=
  fun a t => ⟨fun a' => filterAccepts_promiscuous a' t, filterAccepts_selective a t⟩

/-! ### The table rows ENCODE, DECODE and FILTER (log entry 8) -/

/-- With a local address ENCODE asks for the bytes of the frame from that address (R90). -/
theorem exec_encode {s : State} {a : Byte} (ha : s.localAddress = some a) (t c : Byte) (p : List Byte) :
    exec (.encode t c p) s = evaluate (.ok (.bytes (encodeFrame t a c p))) s := by
  change execEncode t c p s = _
  rw [execEncode, ha]

/-- Settles O11: an idle block answers the bytes of the frame. -/
theorem encodeAnswers : Obligations.EncodeAnswers := by
  intro s t c a p hf hi ha
  rw [exec_encode ha, ← encodeFrameBytes t a c p]
  exact evaluate_idle hf hi _

/-- Settles O12: DECODE has an answer for all bytes. -/
theorem decodeAnswers : Obligations.DecodeAnswers :=
  fun _ _ hf hi => evaluate_idle hf hi _

/-- Where the filter has a value, FILTER answers it (R93). -/
theorem exec_filter {s : State} {t : Byte} {b : Bool} (hf : s.faulted = false) (hi : s.idle = true)
    (h : filterAccepts s.promiscuous s.localAddress t = some b) :
    exec (.filter t) s = .next { s with result := some (.bool b) } := by
  change execFilter t s = _
  rw [execFilter, h]
  exact evaluate_idle hf hi _

/-- Settles O13, by the two rows of the truth table. -/
theorem filterAnswers : Obligations.FilterAnswers := by
  refine fun s t hf hi => ⟨fun hp => exec_filter hf hi ?_, fun a hp ha => exec_filter hf hi ?_⟩
  · rw [hp, filterAccepts_promiscuous]
  · rw [hp, ha, filterAccepts_selective]

end Sys2Proof.Machine
end

section
/-! PROOFS of the receive pipeline's family (spec 42_receive_pipeline.md): faulted states, RECEIVE_BEGIN and
RECEIVE_DONE from every mode, the paths of ON_READY_EDGE, and the host's reading window. -/

namespace Sys2Proof.Machine

variable {ctx : Context} {s : State} {rest : List Micro}

/-! ### Faulted states (R106, R155, R173) -/

theorem command_faulted (hf : s.faulted = true) (o : Option Refusal) (p : List Micro) :
    command o p s = .fault .oversizeFrame := by
  simp [command, hf]

theorem evaluate_faulted (hf : s.faulted = true) (a : Except Refusal Result) :
    evaluate a s = .fault .oversizeFrame := by
  simp [evaluate, hf]

/-- Every instruction that is not refused in every state is the fault (R155; log entry 10). -/
theorem exec_faulted {i : Instr} (hf : s.faulted = true) (hE : i ≠ .cmdUnassignedE) (hF : i ≠ .cmdUnassignedF) :
    exec i s = .fault .oversizeFrame := by
  cases exec_admission i s with
  | init b n w h => subst h; simp [exec, execInitBlock, hf]
  | command o p w _ h => exact h.trans (command_faulted (s := { s with window := w }) hf o p)
  | codec a _ h => exact h.trans (evaluate_faulted hf a)
  | event h => subst h; simp [exec, execOnReadyEdge, readyEdge, hf]
  | unassigned h => exact absurd h (not_or.2 ⟨hE, hF⟩)

/-- Settles O5, by the ways an instruction is admitted: each tests the fault first. -/
theorem faultedStateHasNoMeaning : Obligations.FaultedStateHasNoMeaning := by
  intro s hf
  refine ⟨step_faulted hf, fun ⟨_, _, _, hn⟩ => ?_, fun i => exec_faulted hf⟩
  rw [hf] at hn
  cases hn

/-! ### RECEIVE_BEGIN (R102) -/

/-- A critical section around any body that leaves the section itself open: the end is the body's, with the section
closed (R47). -/
theorem reaches_critical_body {t : State} {body : List Micro} {b : Nat} (h : s.running ctx) (ht : t.running ctx)
    (hb : ∀ r, Reaches b (s.enterCritical.atPos ctx (body ++ r)) (t.enterCritical.atPos ctx r)) :
    Reaches (b + 2) (s.atPos ctx (critical body ++ rest)) (t.atPos ctx rest) := by
  have henter : Reaches 1 (s.atPos ctx (.enterCritical :: (body ++ (.exitCritical :: rest))))
      (s.enterCritical.atPos ctx (body ++ (.exitCritical :: rest))) :=
    reaches_micro h (by cases ctx <;> rfl)
  have hexit : Reaches 1 (t.enterCritical.atPos ctx (.exitCritical :: rest)) (t.atPos ctx rest) :=
    reaches_micro (s := t.enterCritical) ht (by cases ctx <;> rfl)
  have hall := (henter.trans (hb _)).trans hexit
  simp only [critical, List.append_assoc, List.cons_append, List.nil_append] at hall ⊢
  exact hall.mono (by omega)

/-- A re-arm whose wait ends may be taken to wait within the poll bound, with the same transactions and answers. -/
theorem State.rearm_bounded {o : RadioMode} {p n : Nat} (hw : s.wakes o (s.rearmStatusReads p + 1) n) (ctx : Context) :
    ∃ k ≤ pollBound, s.wakes o (s.rearmStatusReads p + 1) k ∧ s.rearmEvents ctx o p k = s.rearmEvents ctx o p n
      ∧ s.rearmReads o p k = s.rearmReads o p n := by
  obtain ⟨k, hk, hwk, hr⟩ := State.wakes_bounded hw
  refine ⟨k, hk, hwk, ?_, ?_⟩
  · simp only [State.rearmEvents, State.setModeEvents_congr hr]
  · simp only [State.rearmReads, setModeReads_congr hr]

/-- The budget covers two mode changes whose waits are within the poll bound, and a frame's positions around them. -/
theorem setModeCost_le_budget (c : Cfg) {k : Nat} (hk : k ≤ pollBound) : 2 * setModeCost c k + 100 ≤ stepBudget c := by
  have := cost_le_budget c (118 + 2 * pollBound) 2 (by decide) (by decide)
  unfold setModeCost
  omega

/-- The budget covers a re-arm whose wait is within the poll bound, and what a command runs around it. -/
theorem rearmCost_le_budget (c : Cfg) {k : Nat} (hk : k ≤ pollBound) : rearmCost c k + 10 ≤ stepBudget c := by
  have := setModeCost_le_budget c hk
  unfold rearmCost
  omega

/-- The state in which `ReceiveBegin` leaves a block whose wait takes `n` further status reads (R102). -/
def State.armed (s : State) (ctx : Context) (n : Nat) : State :=
  ((s.io (s.rearmEvents ctx s.mode 0 n) (s.rearmReads s.mode 0 n)).withSlot s.slot.cleared false).inMode .receive

/-- `ReceiveBegin()` in a critical section of its own, as RECEIVE_BEGIN runs it (R102). -/
theorem reaches_critical_receiveBegin (h : s.running ctx) (n : Nat)
    (hw : s.wakes s.mode (s.rearmStatusReads 0 + 1) n) :
    Reaches (rearmCost s.cfg n + 2) (s.atPos ctx (critical (receiveBegin s.cfg) ++ rest))
      ((s.armed ctx n).atPos ctx rest) :=
  reaches_critical_body (t := s.armed ctx n) h h fun _ => reaches_receiveBegin (s := s.enterCritical) h n hw

/-- Settles O26: the command's program is `ReceiveBegin` in a critical section, whose wait may be bounded. -/
theorem receiveBeginArms : Obligations.ReceiveBeginArms := by
  intro s n h hw
  obtain ⟨k, hk, hwk, he, hr⟩ := State.rearm_bounded hw .fg
  have hrun := running_launched (s := s.closeWindow) h.1
  have hbudget : rearmCost s.cfg k + 2 + 1 ≤ stepBudget s.cfg := by
    have := rearmCost_le_budget s.cfg hk
    omega
  refine (command_ready (s := s.closeWindow) h _).trans
    ((launch_finishes (s := s.closeWindow) false (reaches_critical_receiveBegin hrun k hwk) hrun hbudget).trans ?_)
  rw [← he, ← hr, ← foreground_of_ready h]
  rfl

/-! ### RECEIVE_DONE (R103) -/

/-- A reported poll opens the window exactly where it found a frame, the mode being Standby (R104). -/
theorem runOpenWindow_eq (s : State) : runOpenWindow s = { s with window := s.flag && s.mode == .standby } := by
  cases hf : s.flag <;> simp [runOpenWindow, State.openWindow, State.closeWindow, hf]

theorem reaches_openWindow (h : s.running ctx) :
    Reaches 1 (s.atPos ctx (.openWindow :: rest))
      (({ s with window := s.flag && s.mode == .standby } : State).atPos ctx rest) := by
  refine reaches_micro h ?_
  change Host.Outcome.next (runOpenWindow _) = _
  rw [runOpenWindow_eq]
  cases ctx <;> rfl

/-- A ready block answers RECEIVE_DONE with the state that its poll reaches, the window opened or closed. -/
theorem exec_receiveDone_reaches {t : State} {b : Nat} (h : s.ready)
    (hr : ∀ r, Reaches b (({ s.closeWindow with result := none } : State).atPos .fg (receiveDone ++ r)) (t.atPos .fg r))
    (ht : t.running .fg) (hb : b + 2 ≤ stepBudget s.cfg) :
    exec .receiveDone s =
      .next { t with
        window := t.flag && t.mode == .standby, result := some (.bool t.flag), foreground := [] } := by
  change command none (receiveDone ++ [.openWindow, .finish true]) s.closeWindow = _
  rw [command_ready (s := s.closeWindow) h]
  exact launch_finishes (s := s.closeWindow) true ((hr _).trans (reaches_openWindow ht)) ht hb

/-- RECEIVE_DONE with a frame pending (R103 lines 3 to 5). -/
theorem exec_receiveDone_found (h : s.ready) (hm : s.mode = .receive) (hp : s.slot.pendingLength ≠ 0) :
    exec .receiveDone s =
      .next { s.io (modeEvents .fg s.cfg .standby (s.readAt 0)) 1 with
        mode := .standby, flag := true, window := true, result := some (.bool true) } := by
  have hrun := running_launched (s := s.closeWindow) h.1
  have hbudget : 4 + setModeCost s.cfg 0 + 2 ≤ stepBudget s.cfg := by
    have := setModeCost_le_budget s.cfg (Nat.zero_le pollBound)
    omega
  rw [exec_receiveDone_reaches h (fun _ => reaches_receiveDone_found hrun hm ((Slot.pending_iff _).2 hp)) hrun hbudget,
    ← foreground_of_ready h]
  rfl

/-- RECEIVE_DONE without a frame to report (R103 lines 6 to 8). -/
theorem exec_receiveDone_rearm (h : s.ready) (hm : ¬(s.mode = .receive ∧ s.slot.pendingLength ≠ 0)) {n : Nat}
    (hw : s.wakes s.mode (s.rearmStatusReads 0 + 1) n) :
    exec .receiveDone s =
      .next { s.io (s.rearmEvents .fg s.mode 0 n) (s.rearmReads s.mode 0 n) with
        slot := s.slot.cleared, window := false, mode := .receive, flag := false, result := some (.bool false) } := by
  obtain ⟨k, hk, hwk, he, hr⟩ := State.rearm_bounded hw .fg
  have hrun := running_launched (s := s.closeWindow) h.1
  have hbudget : 4 + rearmCost s.cfg k + 2 ≤ stepBudget s.cfg := by
    have := rearmCost_le_budget s.cfg hk
    omega
  rw [← Slot.pending_iff] at hm
  rw [exec_receiveDone_reaches h (fun _ => reaches_receiveDone_rearm hrun hm k hwk) hrun hbudget, ← he, ← hr,
    ← foreground_of_ready h]
  rfl

/-- Settles O27, by the two paths of the poll. -/
theorem receiveDonePolls : Obligations.ReceiveDonePolls :=
  fun _ _ h => ⟨exec_receiveDone_found h, fun hm hw => exec_receiveDone_rearm h hm hw⟩

/-! ### ON_READY_EDGE (R100, R101, R106) -/

/-- With delivery on the event of an edge runs the interrupt context, from its entry on (R145, R148). -/
theorem exec_onReadyEdge_enabled (h : s.accepting) (he : s.irqEnabled = true) :
    exec .onReadyEdge s =
      drive (stepBudget s.cfg) (({ s with irqEnabled := false } : State).atPos .irq [.edgeGuard, .irqReturn]) := by
  obtain ⟨hf, -, hh, -, hp⟩ := h
  change readyEdge s = _
  simp [readyEdge, hf, he, State.edge, State.enterInterrupt, State.atPos, handlerProgram, hh, hp]

/-- Where the interrupt context comes to its return, the event answers with the state it comes to, delivery on again
(R148). -/
theorem exec_onReadyEdge_returns {t : State} {b : Nat} (h : s.accepting) (he : s.irqEnabled = true)
    (hr : Reaches b (({ s with irqEnabled := false } : State).atPos .irq [.edgeGuard, .irqReturn])
      (({ t with irqEnabled := false } : State).atPos .irq [.irqReturn]))
    (ht : t.accepting) (hte : t.irqEnabled = true) (hb : b + 1 ≤ stepBudget s.cfg) :
    exec .onReadyEdge s = .next t := by
  obtain ⟨hf, hfg, hh, hq⟩ := ht
  have hreturn : Reaches 1 (({ t with irqEnabled := false } : State).atPos .irq [.irqReturn]) t := by
    refine reaches_micro (s := { t with irqEnabled := false }) ⟨hq, hf, nofun⟩ ?_
    change Host.Outcome.next { t with irqEnabled := true, handler := [] } = .next t
    rw [← hte, ← hh]
  rw [exec_onReadyEdge_enabled h he]
  exact (hr.trans hreturn).drive_eq (by simp [State.halted, State.idle, hfg, hh]) hb

/-- While the interrupt context of an accepting block runs, nothing cuts in. -/
theorem running_entered (h : s.accepting) : ({ s with irqEnabled := false } : State).running .irq :=
  ⟨h.2.2.2, h.1, nofun⟩

/-- Settles O29: each guard leaves for the return at once, and the block is the one the edge met. -/
theorem edgeGuardsHoldBack : Obligations.EdgeGuardsHoldBack := by
  refine fun s h he => ⟨fun hm => ?_, fun hm hp => ?_⟩
  · exact exec_onReadyEdge_returns (t := s) h he (reaches_edgeGuard_mode (running_entered h) hm) h he
      (small_le_budget s.cfg 2 (by decide))
  · exact exec_onReadyEdge_returns (t := s.io [rd .irq s.cfg.regmap.aIrq2 (s.readAt 0)] 1) h he
      (reaches_edgeGuard_status (running_entered h) hm hp) h he (small_le_budget s.cfg 3 (by decide))

/-- The block once both guards have passed: in Standby, delivery off, the length to be read (R100 lines 1 to 3). -/
def State.draining (s : State) : State :=
  (({ s with irqEnabled := false } : State).io (s.drainEvents .irq) 2).inMode .standby

@[simp] theorem State.draining_readAt (s : State) (k : Nat) : s.draining.readAt k = s.readAt (2 + k) := by
  rw [State.draining, State.inMode_readAt, State.io_readAt]
  rfl

theorem running_draining (h : s.accepting) : s.draining.running .irq :=
  running_entered h

theorem reaches_draining (h : s.accepting) (hm : s.mode = .receive)
    (hp : s.readAt 0 &&& s.cfg.regmap.bPayloadReady ≠ 0) :
    Reaches (2 + setModeCost s.cfg 0)
      (({ s with irqEnabled := false } : State).atPos .irq [.edgeGuard, .irqReturn])
      (s.draining.atPos .irq [.popLength, .irqReturn]) :=
  reaches_edge_drain (running_entered h) hm hp

/-- Settles O34: the length byte faults the block inside the interrupt context, where the run ends. -/
theorem edgeFaultsOnOversize : Obligations.EdgeFaultsOnOversize := by
  intro s h he hm hp hl
  have hlen : s.draining.readAt 0 = s.readAt 2 := s.draining_readAt 0
  have hrun := (reaches_draining h hm hp).trans
    (reaches_popLength_oversize (rest := [.irqReturn]) (running_draining h) (by rwa [hlen]))
  have hbudget : 2 + setModeCost s.cfg 0 + 2 ≤ stepBudget s.cfg := by
    have := setModeCost_le_budget s.cfg (Nat.zero_le pollBound)
    omega
  rw [hlen] at hrun
  exact ⟨_, (exec_onReadyEdge_enabled h he).trans (hrun.drive_eq rfl hbudget), rfl, rfl, rfl, rfl, step_faulted rfl⟩

theorem filterAccepts_addressed {a t : Byte} (h : t = a ∨ t = 0) (p : Bool) :
    filterAccepts p (some a) t = some true := by
  cases p with
  | true => exact filterAccepts_promiscuous _ t
  | false => rw [filterAccepts_selective, decide_eq_true h]

/-- The three ways a target passes the filter (R93). -/
theorem filterAccepts_of_passes {t : Byte}
    (h : s.promiscuous = true ∨ s.localAddress = some t ∨ s.localAddress ≠ none ∧ t = 0) :
    filterAccepts s.promiscuous s.localAddress t = some true := by
  rcases h with hp | ha | ⟨ha, ht⟩
  · rw [hp]
    exact filterAccepts_promiscuous _ t
  · rw [ha]
    exact filterAccepts_addressed (.inl rfl) _
  · obtain ⟨a, ha⟩ := Option.ne_none_iff_exists'.1 ha
    rw [ha]
    exact filterAccepts_addressed (.inr ht) _

theorem State.fifoBytes_succ (s : State) (p n : Nat) :
    s.fifoBytes p (n + 1) = s.readAt p :: s.fifoBytes (p + 1) n := by
  simp [State.fifoBytes, List.range_succ_eq_map, Function.comp_def, Nat.add_assoc, Nat.add_comm 1]

/-- The FIFO reads of a frame with `n` payload bytes, one after the other: its four header bytes and its payload. -/
theorem State.fifoBytes_frame (s : State) (p n : Nat) :
    s.fifoBytes p (n + 4)
      = s.readAt p :: s.readAt (p + 1) :: s.readAt (p + 2) :: s.readAt (p + 3) :: s.fifoBytes (p + 4) n := by
  simp only [State.fifoBytes_succ, Nat.add_assoc, Nat.reduceAdd]

/-- The block once the filter has its target: two more bytes read (R100 lines 4 and 7). -/
def State.filtering (s : State) : State :=
  s.draining.io [rd .irq s.cfg.regmap.aFifo (s.readAt 2), rd .irq s.cfg.regmap.aFifo (s.readAt 3)] 2

@[simp] theorem State.filtering_readAt (s : State) (k : Nat) : s.filtering.readAt k = s.readAt (4 + k) := by
  rw [State.filtering, State.io_readAt, State.draining_readAt, ← Nat.add_assoc]

theorem State.filtering_fifoBytes (s : State) (p n : Nat) : s.filtering.fifoBytes p n = s.fifoBytes (4 + p) n := by
  simp [State.fifoBytes, Nat.add_assoc]

/-- A length 3 to 64 brings the drain to the filter (R100 lines 1 to 8). -/
theorem reaches_filtering (h : s.accepting) (hm : s.mode = .receive)
    (hp : s.readAt 0 &&& s.cfg.regmap.bPayloadReady ≠ 0) (h3 : 3 ≤ (s.readAt 2).toNat)
    (h64 : (s.readAt 2).toNat ≤ 64) :
    Reaches (4 + setModeCost s.cfg 0)
      (({ s with irqEnabled := false } : State).atPos .irq [.edgeGuard, .irqReturn])
      (s.filtering.atPos .irq [.applyFilter (s.readAt 2) (s.readAt 3), .irqReturn]) := by
  have hfilter := reaches_drain_filter (rest := [.irqReturn]) (running_draining h)
    (by rwa [State.draining_readAt]) (by rwa [State.draining_readAt])
  simp only [State.draining_readAt, Nat.add_zero, Nat.reduceAdd] at hfilter
  exact ((reaches_draining h hm hp).trans hfilter).mono (by omega)

/-- The slot that an accepted frame leaves, in the answers that come after the edge (R100 lines 11, 12 and 14). -/
def State.receivedSlot (s : State) : Slot where
  pendingLength := s.readAt 2
  payloadLength := s.readAt 2 - 3
  targetAddress := s.readAt 3
  senderAddress := s.readAt 4
  ackReply := (s.readAt 5).getLsbD 7
  ackRequest := (s.readAt 5).getLsbD 6
  payload := s.slot.payload.fill (s.fifoBytes 6 ((s.readAt 2).toNat - 3))
  rssi := s.rssiAnswer

theorem State.filtering_acceptedSlot (s : State) (h3 : 3 ≤ (s.readAt 2).toNat) :
    s.filtering.acceptedSlot (s.readAt 2) (s.readAt 3) = s.receivedSlot := by
  have hn : (s.readAt 2 - 3).toNat = (s.readAt 2).toNat - 3 := payloadLengthOf_toNat h3
  simp only [State.acceptedSlot, State.filtering_readAt, State.filtering_fifoBytes, hn]
  rfl

/-- The transactions of an accepted frame, from the status read on (R100). -/
def State.receiveEvents (s : State) : List BusEvent :=
  rd .irq s.cfg.regmap.aIrq2 (s.readAt 0)
    :: modeEvents .irq s.cfg .standby (s.readAt 1)
    ++ (s.fifoBytes 2 ((s.readAt 2).toNat + 1)).map (fun b => rd .irq s.cfg.regmap.aFifo b)
    ++ modeEvents .irq s.cfg .receive (s.readAt ((s.readAt 2).toNat + 3))

theorem State.filtering_acceptEvents (s : State) (h3 : 3 ≤ (s.readAt 2).toNat) :
    s.drainEvents .irq
        ++ [rd .irq s.cfg.regmap.aFifo (s.readAt 2), rd .irq s.cfg.regmap.aFifo (s.readAt 3)]
        ++ s.filtering.acceptEvents .irq ((s.readAt 2).toNat - 3) = s.receiveEvents := by
  obtain ⟨n, hn⟩ := Nat.exists_eq_add_of_le' h3
  have hcfg : s.filtering.cfg = s.cfg := rfl
  simp only [State.acceptEvents, State.filtering_readAt, State.filtering_fifoBytes, State.drainEvents,
    State.receiveEvents, hcfg, hn, Nat.add_sub_cancel, Nat.add_assoc, State.fifoBytes_frame, Nat.reduceAdd]
  rw [show 4 + (2 + n) = n + 6 by omega]
  simp only [List.append_assoc, List.cons_append, List.nil_append, List.map_cons]

/-- The block after an accepted frame (R100, R20, R21). -/
def State.received (s : State) : State :=
  (s.drawRssi.io s.receiveEvents ((s.readAt 2).toNat + 4)).withSlot s.receivedSlot false

/-- From the filter on, the accepting path ends in that block, delivery still off. -/
theorem State.filtering_received (s : State) (hm : s.mode = .receive) (h3 : 3 ≤ (s.readAt 2).toNat) :
    ((s.filtering.drawRssi.io (s.filtering.acceptEvents .irq ((s.readAt 2).toNat - 3))
        (3 + ((s.readAt 2).toNat - 3))).withSlot s.receivedSlot false).inMode .receive =
      { s.received with irqEnabled := false } := by
  rw [State.received, show (s.readAt 2).toNat + 4 = 4 + (3 + ((s.readAt 2).toNat - 3)) by omega,
    ← s.filtering_acceptEvents h3, ← hm]
  simp [State.filtering, State.draining, State.io, State.drawRssi, State.withSlot, State.inMode]

/-- The filter accepts: the drain comes to the return with the frame in the slot, in Receive again (R100). -/
theorem reaches_received (h : s.accepting) (hm : s.mode = .receive)
    (hp : s.readAt 0 &&& s.cfg.regmap.bPayloadReady ≠ 0) (h3 : 3 ≤ (s.readAt 2).toNat) (h64 : (s.readAt 2).toNat ≤ 64)
    (hf : filterAccepts s.promiscuous s.localAddress (s.readAt 3) = some true) :
    Reaches (70 + 2 * setModeCost s.cfg 0)
      (({ s with irqEnabled := false } : State).atPos .irq [.edgeGuard, .irqReturn])
      (({ s.received with irqEnabled := false } : State).atPos .irq [.irqReturn]) := by
  have hn : (s.readAt 2 - 3).toNat = (s.readAt 2).toNat - 3 := payloadLengthOf_toNat h3
  have hcfg : s.filtering.cfg = s.cfg := rfl
  have haccept := reaches_applyFilter_accept (s := s.filtering) (rest := [.irqReturn]) (running_draining h) rfl
    (s.readAt 2) (s.readAt 3) hf
  rw [hn, s.filtering_acceptedSlot h3, s.filtering_received hm h3, hcfg] at haccept
  exact ((reaches_filtering h hm hp h3 h64).trans haccept).mono (by omega)

/-- Settles O30: the drain to the filter, and the filter's accepting path. -/
theorem edgeAcceptsFrame : Obligations.EdgeAcceptsFrame := by
  intro s h he hm hp h3 h64 hf
  have hbudget : 70 + 2 * setModeCost s.cfg 0 + 1 ≤ stepBudget s.cfg := by
    have := setModeCost_le_budget s.cfg (Nat.zero_le pollBound)
    omega
  exact exec_onReadyEdge_returns (t := s.received) h he
    (reaches_received h hm hp h3 h64 (filterAccepts_of_passes hf)) h he hbudget

/-! ### The host's reading window (R104) -/

theorem leavesSlot_storeMode (m : RadioMode) : (Micro.storeMode m).leavesSlot = (m != .receive) :=
  rfl

/-- A transition to another mode than Receive leaves the slot alone (R80). -/
theorem transition_calm (c : Cfg) {m : RadioMode} (hm : m ≠ .receive) : calm (transition c m) = true := by
  refine calm_of_all ?_
  rw [transition_all (fun _ _ => rfl), leavesSlot_storeMode, bne_iff_ne.2 hm]
  rfl

theorem sendFrameBody_calm (c : Cfg) (bytes : List Byte) : calm (sendFrameBody c bytes) = true :=
  calm_of_all ((sendFrameBody_all (fun _ _ => rfl) c bytes).trans rfl)

/-- What follows a position that leaves the slot alone is calm: RECEIVE_DONE's re-arm closes the window first. -/
theorem Follows.calm {m : Micro} {ms : List Micro} (h : Follows m ms) (hm : m.leavesSlot = true) : calm ms = true := by
  cases h with
  | setMode c t r hr =>
    refine transition_calm c ?_
    rintro rfl
    revert t
    decide
  | loadFrame c t k p bytes => exact sendFrameBody_calm c bytes
  | edgeGuard | edgeStatus | malformed | oversize | popLength | popTarget | accept | reject | popSender
  | popControl => cases hm
  | _ => rfl

/-- A position that may open the window leaves the slot alone. -/
theorem leavesSlot_of_mayOpen {m : Micro} (h : m.mayOpen = true) : m.leavesSlot = true := by
  cases m with
  | openWindow | retryLoop | startWindow | windowTest | windowPoll => rfl
  | _ => cases h

/-- Only SEND_WITH_RETRY's positions lead to a position that may open the window. -/
theorem Follows.mayOpen {m : Micro} {ms : List Micro} (h : Follows m ms) (hm : m.mayOpen = false) :
    ms.all (fun m => !m.mayOpen) = true := by
  cases h with
  | setMode c t r hr => exact (transition_all (fun _ _ => rfl) c r).trans rfl
  | loadFrame c t k p bytes => exact (sendFrameBody_all (fun _ _ => rfl) c bytes).trans rfl
  | popControl l t sn k => simp [Micro.mayOpen, List.all_map]
  | retryOver | retrySend | startWindow | windowOpen | windowOver | pollMatch | pollAgain => cases hm
  | _ => rfl

theorem opensCalmly_of_none {l : List Micro} (h : l.all (fun m => !m.mayOpen) = true) : opensCalmly l = true := by
  have := opensCalmly_append (b := []) h rfl
  rwa [List.append_nil] at this

/-- In what follows a position nothing stands behind an opening but what is calm. -/
theorem Follows.opensCalmly {m : Micro} {ms : List Micro} (h : Follows m ms) : opensCalmly ms = true := by
  cases hm : m.mayOpen with
  | false => exact opensCalmly_of_none (h.mayOpen hm)
  | true =>
    cases h with
    | nothing | retryOver | retrySend | startWindow | windowOpen | windowOver | pollMatch | pollAgain => rfl
    | _ => cases hm

theorem opensCalmly_cons {m : Micro} {l : List Micro} :
    opensCalmly (m :: l) = true ↔ (m.mayOpen = true → calm l = true) ∧ opensCalmly l = true := by
  cases hm : m.mayOpen <;> simp [opensCalmly, hm]

theorem calm_cons {m : Micro} {l : List Micro} :
    calm (m :: l) = true ↔ (m.closesWindow = false → m.leavesSlot = true ∧ calm l = true) := by
  cases hm : m.closesWindow <;> simp [calm, hm]

/-- A program that opens the window only before calm parts of its own does so before a calm rest, too. -/
theorem opensCalmly_append_calm {a b : List Micro} (ha : opensCalmly a = true) (hb : opensCalmly b = true)
    (hc : calm b = true) : opensCalmly (a ++ b) = true := by
  induction a with
  | nil => exact hb
  | cons m a ih =>
    obtain ⟨hm, ha⟩ := opensCalmly_cons.1 ha
    exact opensCalmly_cons.2 ⟨fun h => calm_append (hm h) hc, ih ha⟩

/-- Every command's program opens the window before a calm rest only. -/
theorem Launches.opensCalmly {i : Instr} {s : State} {p : List Micro} (h : Launches i s p) : opensCalmly p = true := by
  cases h with
  | setEncryptionKey s k =>
    refine opensCalmly_of_none ?_
    rw [List.all_append, setEncryptionKey_all (fun _ _ => rfl) (fun _ _ _ => rfl)]
    rfl
  | _ => rfl

/-- A command that starts with the window as it is leaves the slot alone until it has closed the window (R104). -/
theorem Launches.calm {i : Instr} {s : State} {p : List Micro} (h : Launches i s p) (hk : keepsWindow i = true) :
    calm p = true := by
  cases h with
  | init | retry | receiveDone | ackReceived | receiveBegin => cases hk
  | setMode s t => exact calm_of_all (Bool.and_eq_true_iff.2 ⟨hk, rfl⟩)
  | setEncryptionKey s k =>
    refine calm_of_all ?_
    rw [List.all_append, setEncryptionKey_all (fun _ _ => rfl) (fun _ _ _ => rfl)]
    rfl
  | _ => rfl

theorem windowInv_entry (h : s.windowInv) : s.enterInterrupt.windowInv := by
  obtain ⟨hf, hh, hw⟩ := h
  exact ⟨hf, hh, hw⟩

theorem windowInv_boundary (h : s.windowInv) : s.boundary.windowInv := by
  rcases boundary_cases s with ⟨p, l, hb⟩ | ⟨-, l, hb⟩
  · exact hb ▸ h
  · exact hb ▸ windowInv_entry h

/-- A micro-step of the foreground: where the window is open after it, the rest was calm before it. -/
theorem windowInv_advances_fg {m : Micro} {ms rest : List Micro} {s t : State} (h : s.windowInv)
    (ha : Advances .fg m ms rest s t) : t.windowInv := by
  obtain ⟨ho, hh, hw⟩ := h
  have hb : s.foreground = m :: rest := ha.before
  have ht : t.foreground = ms ++ rest := ha.after
  have hth : t.handler = [] := Eq.trans ha.other (ha.waits rfl)
  rw [hb] at ho hw
  obtain ⟨hopen, hrest⟩ := opensCalmly_cons.1 ho
  refine ⟨?_, by rw [hth]; rfl, fun htw => ?_⟩
  · rw [ht]
    cases hm : m.mayOpen with
    | false => exact opensCalmly_append (ha.follows.mayOpen hm) hrest
    | true => exact opensCalmly_append_calm ha.follows.opensCalmly hrest (hopen hm)
  · rw [ht, hth]
    rcases ha.changes.window htw with ⟨hsw, hcl⟩ | ⟨hm, hmode⟩
    · obtain ⟨hmode, -, hcalm⟩ := hw hsw
      obtain ⟨hl, hcalm⟩ := calm_cons.1 hcalm hcl
      refine ⟨fun hr => ?_, rfl, calm_append (ha.follows.calm hl) hcalm⟩
      rcases ha.changes.mode with he | rfl
      · exact hmode (he ▸ hr)
      · rw [hr] at hl
        cases hl
    · exact ⟨by rw [hmode]; nofun, rfl, calm_append (ha.follows.calm (leavesSlot_of_mayOpen hm)) (hopen hm)⟩

/-- A micro-step of the interrupt context: with the window open it is the mode guard, which holds back outside Receive,
or the return. -/
theorem windowInv_advances_irq {m : Micro} {ms rest : List Micro} {s t : State} (h : s.windowInv)
    (ha : Advances .irq m ms rest s t) (hguard : m = .edgeGuard → s.mode ≠ .receive → ms = []) : t.windowInv := by
  obtain ⟨ho, hh, hw⟩ := h
  have hb : s.handler = m :: rest := ha.before
  have ht : t.handler = ms ++ rest := ha.after
  have htf : t.foreground = s.foreground := ha.other
  rw [hb] at hh hw
  simp only [List.all_cons, Bool.and_eq_true, Bool.not_eq_true'] at hh
  refine ⟨by rwa [htf], ?_, fun htw => ?_⟩
  · rw [ht, List.all_append, ha.follows.mayOpen hh.1, hh.2]
    rfl
  · rcases ha.changes.window htw with ⟨hsw, -⟩ | ⟨hm, -⟩
    · obtain ⟨hmode, hbefore, hcalm⟩ := hw hsw
      simp only [List.all_cons, Bool.and_eq_true, Bool.or_eq_true, beq_iff_eq] at hbefore
      obtain ⟨hm, hbefore⟩ := hbefore
      have hms : ms = [] := by
        rcases hm with hm | rfl
        · exact hguard hm hmode
        · cases ha.follows
          rfl
      have htm : t.mode = s.mode := ha.changes.mode.resolve_right (by rcases hm with rfl | rfl <;> nofun)
      rw [ht, hms, htf, htm]
      exact ⟨hmode, hbefore, hcalm⟩
    · rw [hh.1] at hm
      cases hm

/-- Outside Receive the mode guard of ON_READY_EDGE leads nowhere (R101). -/
theorem Advances.edgeGuard_holds {ms rest : List Micro} {s t : State} (ha : Advances .irq .edgeGuard ms rest s t)
    (h : advance s = .next t) (hm : s.mode ≠ .receive) : ms = [] := by
  rw [advance_irq ha.before] at h
  have ht : runEdgeGuard .irq { s with handler := rest } = t := Host.Outcome.next.inj h
  rw [runEdgeGuard, if_neg hm] at ht
  have hp : rest = ms ++ rest := by
    rw [← ha.after, ← ht]
    rfl
  exact List.append_left_eq_self.1 hp.symm

theorem windowInv_advance {s t : State} (h : s.windowInv) (ht : advance s = .next t) : t.windowInv := by
  rcases advance_advances ht with rfl | ⟨ctx, m, ms, rest, ha⟩
  · exact h
  · cases ctx with
    | fg => exact windowInv_advances_fg h ha
    | irq => exact windowInv_advances_irq h ha (by rintro rfl; exact ha.edgeGuard_holds ht)

theorem windowInv_launch {i : Instr} {u : State} {p : List Micro} (hu : u.windowInv) (hl : Launches i u p) :
    State.windowInv { u with window := u.window && keepsWindow i, foreground := p } := by
  obtain ⟨-, hh, hw⟩ := hu
  refine ⟨hl.opensCalmly, hh, fun h => ?_⟩
  obtain ⟨huw, hk⟩ := Bool.and_eq_true_iff.1 h
  obtain ⟨hmode, hbefore, -⟩ := hw huw
  exact ⟨hmode, hbefore, hl.calm hk⟩

/-- Every step keeps the window's invariant, whatever the schedule (R104). -/
theorem step_windowInv {s t : State} (hs : s.windowInv) (h : step s = .next t) : t.windowInv :=
  step_inv (P := State.windowInv) (fun _ => windowInv_boundary) (fun _ _ => windowInv_advance) (fun _ _ _ h => h)
    (fun _ _ h => ⟨h, fun _ => windowInv_entry h⟩) (fun _ _ _ _ _ _ _ hu hl => windowInv_launch hu hl) hs h

theorem writesSlot_of_leavesSlot {m : Micro} (h : m.leavesSlot = true) : m.writesSlot = false := by
  cases m with
  | clearField | popPayload | storeFrame | sampleRssi => cases h
  | _ => rfl

theorem SlotStep.eq_of_not_writes {m : Micro} {sl sl' : Slot} (h : SlotStep m sl sl') (hm : m.writesSlot = false) :
    sl' = sl := by
  cases h with
  | same => rfl
  | clear | byte | store | sample => cases hm

/-- An advance that leaves the open window open leaves the slot as it was (R104). -/
theorem advance_slot {s t : State} (h : s.windowInv) (hw : s.window = true) (ht : advance s = .next t)
    (htw : t.window = true) : t.slot = s.slot := by
  obtain ⟨-, -, hinv⟩ := h
  obtain ⟨-, hbefore, hcalm⟩ := hinv hw
  rcases advance_advances ht with rfl | ⟨ctx, m, ms, rest, ha⟩
  · rfl
  · refine ha.changes.slot.eq_of_not_writes ?_
    cases ctx with
    | fg =>
      rw [show s.foreground = m :: rest from ha.before] at hcalm
      rcases ha.changes.window htw with ⟨-, hcl⟩ | ⟨hm, -⟩
      · exact writesSlot_of_leavesSlot (calm_cons.1 hcalm hcl).1
      · exact writesSlot_of_leavesSlot (leavesSlot_of_mayOpen hm)
    | irq =>
      rw [show s.handler = m :: rest from ha.before] at hbefore
      simp only [List.all_cons, Bool.and_eq_true, Bool.or_eq_true, beq_iff_eq] at hbefore
      obtain ⟨rfl | rfl, -⟩ := hbefore <;> rfl

@[simp] theorem State.boundary_slot (s : State) : s.boundary.slot = s.slot := by
  rcases boundary_cases s with ⟨p, l, h⟩ | ⟨-, l, h⟩ <;> rw [h]

@[simp] theorem State.boundary_window (s : State) : s.boundary.window = s.window := by
  rcases boundary_cases s with ⟨p, l, h⟩ | ⟨-, l, h⟩ <;> rw [h]

theorem tick_slot {s t : State} (h : s.windowInv) (hw : s.window = true) (ht : tick s = .next t)
    (htw : t.window = true) : t.slot = s.slot := by
  rw [advance_slot (windowInv_boundary h) (by rwa [State.boundary_window]) ht htw, State.boundary_slot]

theorem hostSlot_of_open (h : s.window = true) : s.hostSlot = some s.slot.view :=
  if_pos h

theorem hostSlot_of_closed (h : s.window = false) : s.hostSlot = none :=
  if_neg (by rw [h]; nofun)

/-- Settles O28: the commands by their whole next states, the invariant and the slot by what an advance can do. -/
theorem hostReadsInWindow : Obligations.HostReadsInWindow := by
  refine ⟨fun s h hm => ?_, fun s t => step_windowInv, fun s t hs hw ht htw => ?_⟩
  · have hwake (p : Nat) : s.wakes s.mode p 0 := by rw [hm]; nofun
    exact ⟨fun hp => ⟨_, exec_receiveDone_found h hm hp, hostSlot_of_open rfl⟩,
      ⟨_, receiveBeginArms s 0 h (hwake _), hostSlot_of_closed rfl⟩,
      ⟨_, setModeMakesTheTransition s .receive 0 h (fun _ => hwake 1), hostSlot_of_closed (Bool.and_false _)⟩,
      fun hp => ⟨_, exec_receiveDone_rearm h (fun hn => hn.2 hp) (hwake _), hostSlot_of_closed rfl⟩⟩
  · have hslot := tick_slot hs hw ht htw
    exact ⟨hslot, by rw [hostSlot_of_open htw, hslot]⟩

end Sys2Proof.Machine
end

section
/-! PROOFS of the CSMA gate's family (spec 43_csma_gate.md): CAN_SEND's table, a round of the spin loop that does not
grant, and CAN_SEND outside Receive whatever interrupts come. -/

namespace Sys2Proof.Machine

variable {s : State} {rest : List Micro}

/-! ### CAN_SEND's table (R110 to R112) -/

/-- A measurement at or above the limit is not clear (R112). -/
theorem channelClear_eq_false_iff (r l : Rssi) : channelClear r l = false ↔ l.toInt ≤ r.toInt := by
  rw [← Bool.not_eq_true, channelClear_iff, not_lt]

/-- A ready block answers CAN_SEND with the state in which `CanSend` comes to its end within the budget. -/
theorem exec_canSend_reaches {t : State} {b : Nat} (h : s.ready)
    (hr : Reaches b (({ s with result := none } : State).atPos .fg (.canSendMode :: [.finish true]))
      (t.atPos .fg [.finish true]))
    (ht : t.running .fg) (hb : b + 1 ≤ stepBudget s.cfg) :
    exec .canSend s = .next { t with result := some (.bool t.flag), foreground := [] } :=
  (command_ready h _).trans (launch_finishes true hr ht hb)

/-- Outside Receive CAN_SEND answers whether the mode is Standby (R110 lines 8 and 9). -/
theorem exec_canSend_other {m : RadioMode} (h : s.ready) (hm : s.mode = m) (hr : m ≠ .receive) :
    exec .canSend s = .next { s with flag := m = .standby, result := some (.bool (m = .standby)) } := by
  subst hm
  have hrun := running_launched h.1
  rw [exec_canSend_reaches h (reaches_canSend_other hrun hr) hrun (small_le_budget s.cfg 3 (by decide)),
    ← foreground_of_ready h]
  rfl

/-- In Receive with a frame pending CAN_SEND answers false, nothing measured (R110 line 2). -/
theorem exec_canSend_pending (h : s.ready) (hm : s.mode = .receive) (hp : s.slot.pendingLength ≠ 0) :
    exec .canSend s = .next { s with flag := false, result := some (.bool false) } := by
  have hrun := running_launched h.1
  rw [exec_canSend_reaches h (reaches_canSend_pending hrun hm ((Slot.pending_iff _).2 hp)) hrun
    (small_le_budget s.cfg 4 (by decide)), ← foreground_of_ready h]
  rfl

/-- In Receive with no frame pending and a busy channel CAN_SEND measures once and answers false (R112). -/
theorem exec_canSend_busy (h : s.ready) (hm : s.mode = .receive) (hp : s.slot.pendingLength = 0)
    (hc : s.cfg.csmaLimit.toInt ≤ s.rssiAnswer.toInt) :
    exec .canSend s = .next { s.drawRssi with flag := false, result := some (.bool false) } := by
  have hrun := running_launched h.1
  rw [exec_canSend_reaches h
    (reaches_canSend_busy hrun hm ((Slot.pending_eq_false_iff _).2 hp) ((channelClear_eq_false_iff _ _).2 hc)) hrun
    (small_le_budget s.cfg 5 (by decide)), ← foreground_of_ready h]
  rfl

/-- In Receive with no frame pending and a clear channel CAN_SEND measures once, makes the transition to Standby and
answers true (R110 lines 3 to 6). -/
theorem exec_canSend_clear (h : s.ready) (hm : s.mode = .receive) (hp : s.slot.pendingLength = 0)
    (hc : s.rssiAnswer.toInt < s.cfg.csmaLimit.toInt) :
    exec .canSend s =
      .next { s.drawRssi.io (modeEvents .fg s.cfg .standby (s.readAt 0)) 1 with
        mode := .standby, flag := true, result := some (.bool true) } := by
  have hrun := running_launched h.1
  have hbudget : 4 + setModeCost s.cfg 0 + 1 ≤ stepBudget s.cfg := by
    have := setModeCost_le_budget s.cfg (Nat.zero_le pollBound)
    omega
  rw [exec_canSend_reaches h
    (reaches_canSend_clear hrun hm ((Slot.pending_eq_false_iff _).2 hp) ((channelClear_iff _ _).2 hc)) hrun hbudget,
    ← foreground_of_ready h]
  rfl

/-- Settles O35, by `CanSend`'s four paths: the first and the last row are the path outside Receive. -/
theorem canSendFollowsTheTable : Obligations.CanSendFollowsTheTable := by
  refine fun s h => ⟨fun hm => exec_canSend_other h hm nofun, exec_canSend_clear h, exec_canSend_busy h,
    exec_canSend_pending h, fun hm => ?_⟩
  rcases hm with hm | hm | hm <;> exact exec_canSend_other h hm nofun

/-! ### The spin loop (R113, R170) -/

/-- A micro-step that answers a next state is a run of exactly one micro-step. -/
theorem runs_micro {ctx : Context} {m : Micro} {t : State} (h : s.running ctx)
    (hm : runMicro ctx m (s.atPos ctx rest) = .next t) : Runs 1 (s.atPos ctx (m :: rest)) t :=
  fun n => by rw [drive_micro s ctx m rest n h, hm]

/-- A check that does not grant takes exactly one micro-step to the `ReceiveDone()` before the next check (R113). -/
theorem runs_spinTest_again {ctx : Context} (h : s.running ctx) (hf : s.flag = false) :
    Runs 1 (s.atPos ctx (.spinTest :: rest)) (s.atPos ctx (receiveDone ++ (.canSendMode :: .spinTest :: rest))) :=
  runs_micro h (by simp [runMicro, runSpinTest, hf, spinUntilClear])

/-- A round of the spin loop: a check that leaves the block in `u` and does not grant, and the re-arm of a
`ReceiveDone()` that finds no frame there (R113). -/
theorem spinRound_runs {u : State} {b w : Nat}
    (hcheck : Reaches b (s.atPos .fg (.canSendMode :: .spinTest :: rest)) (u.atPos .fg (.spinTest :: rest)))
    (hu : u.running .fg) (hflag : u.flag = false) (hm : ¬(u.mode = .receive ∧ u.slot.pending = true))
    (hw : u.wakes u.mode (u.rearmStatusReads 0 + 1) w) :
    ∃ c, 0 < c ∧ Runs c (s.atPos .fg (.canSendMode :: .spinTest :: rest))
      (((u.armed .fg w).withFlag false).atPos .fg (.canSendMode :: .spinTest :: rest)) := by
  obtain ⟨c, -, hc⟩ := hcheck
  obtain ⟨d, -, hd⟩ := reaches_receiveDone_rearm (rest := .canSendMode :: .spinTest :: rest) hu hm w hw
  refine ⟨d + 1 + c, by omega, fun n => ?_⟩
  rw [← Nat.add_assoc, hc, ← Nat.add_assoc, runs_spinTest_again hu hflag, hd]
  rfl

/-- In Receive the re-arm makes no transition: the mode is left as it is (R102, R80 line 2). -/
theorem State.armed_of_receive (hm : s.mode = .receive) (ctx : Context) (n : Nat) :
    s.armed ctx n =
      (s.io (s.rearmEvents ctx .receive 0 n) (s.rearmReads .receive 0 n)).withSlot s.slot.cleared false := by
  rw [State.armed, hm]
  cases s
  cases hm
  rfl

/-- Settles O36: in Receive a busy channel ends the check after one measurement, in the other modes the mode does, and
the re-arm leads back to the check. -/
theorem spinRoundReArms : Obligations.SpinRoundReArms := by
  intro s rest hf hq hh
  have hrun : s.running .fg := ⟨hq, hf, fun _ => hh⟩
  refine ⟨fun hm hp hc => ?_, fun w hm hw => ?_⟩
  · have hpending := (Slot.pending_eq_false_iff _).2 hp
    have hround := spinRound_runs (w := 0)
      (reaches_canSend_busy (rest := .spinTest :: rest) hrun hm hpending ((channelClear_eq_false_iff _ _).2 hc))
      hrun rfl (fun h => by simp [hpending] at h) (by simp [hm])
    rw [State.armed_of_receive (s := s.drawRssi.withFlag false) hm] at hround
    exact hround
  · have hmode : s.mode ≠ .receive ∧ s.mode ≠ .standby := by rcases hm with hm | hm | hm <;> simp [hm]
    obtain ⟨hreceive, hstandby⟩ := hmode
    have hcheck := reaches_canSend_other (rest := .spinTest :: rest) hrun hreceive
    rw [decide_eq_false hstandby] at hcheck
    exact spinRound_runs (u := s.withFlag false) hcheck hrun rfl (fun h => hreceive h.1) hw

/-! ### CAN_SEND under interrupts (R111) -/

theorem State.idle_iff : s.idle = true ↔ s.foreground = [] ∧ s.handler = [] := by
  simp [State.idle]

/-- CAN_SEND is in flight, or at its end, in a mode other than Receive: ON_READY_EDGE is not past its mode guard, and
the answer is whether the mode is Standby once line 9 has run (R110 lines 8 and 9, R101). -/
structure State.checking (m : RadioMode) (s : State) : Prop where
  mode : s.mode = m
  guarded : s.handler.all (fun p => p == .edgeGuard || p == .irqReturn) = true
  stage : s.foreground = [.canSendMode, .finish true]
    ∨ s.foreground = [.canSendStandby, .finish true]
    ∨ s.foreground = [.finish true] ∧ s.flag = decide (m = .standby)
    ∨ s.foreground = [] ∧ s.result = some (.bool (decide (m = .standby)))

/-- At the end of CAN_SEND the answer is whether the mode is Standby. -/
theorem State.checking.result {m : RadioMode} (h : s.checking m) (hf : s.foreground = []) :
    s.result = some (.bool (decide (m = .standby))) := by
  have hst := h.stage
  rw [hf] at hst
  simpa using hst

theorem checking_boundary {m : RadioMode} (h : s.checking m) : s.boundary.checking m := by
  obtain ⟨hm, hg, hst⟩ := h
  rcases boundary_cases s with ⟨p, l, hb⟩ | ⟨-, l, hb⟩
  · exact hb ▸ ⟨hm, hg, hst⟩
  · exact hb ▸ ⟨hm, hg, hst⟩

/-- A micro-step of the interrupt context: outside Receive the mode guard holds it back (R101). -/
theorem checking_advance_irq {m : RadioMode} {p : Micro} {rest : List Micro} (h : s.checking m) (hm : m ≠ .receive)
    (hh : s.handler = p :: rest) : ∃ t, advance s = .next t ∧ t.checking m := by
  obtain ⟨hmode, hg, hst⟩ := h
  rw [hh, List.all_cons, Bool.and_eq_true, Bool.or_eq_true, beq_iff_eq, beq_iff_eq] at hg
  obtain ⟨hp, hrest⟩ := hg
  rw [advance_irq hh]
  rcases hp with rfl | rfl
  · refine ⟨{ s with handler := rest }, ?_, hmode, hrest, hst⟩
    simp [runMicro, runEdgeGuard, hmode, hm]
  · exact ⟨_, rfl, hmode, hrest, hst⟩

/-- A micro-step of CAN_SEND itself: the mode sends it to line 8, and the answer is handed over as it is. -/
theorem checking_advance_fg {m : RadioMode} (h : s.checking m) (hm : m ≠ .receive) (hh : s.handler = []) :
    ∃ t, advance s = .next t ∧ t.checking m := by
  obtain ⟨hmode, hg, hst⟩ := h
  rcases hst with hf | hf | ⟨hf, hflag⟩ | ⟨hf, hres⟩
  · refine ⟨{ s with foreground := [.canSendStandby, .finish true] }, ?_, hmode, hg, .inr (.inl rfl)⟩
    rw [advance_fg hh hf]
    simp [runMicro, runCanSendMode, hmode, hm, State.push]
  · rw [advance_fg hh hf]
    exact ⟨_, rfl, hmode, hg, .inr (.inr (.inl ⟨rfl, by rw [← hmode]; rfl⟩))⟩
  · rw [advance_fg hh hf]
    exact ⟨_, rfl, hmode, hg, .inr (.inr (.inr ⟨rfl, by rw [← hflag]; rfl⟩))⟩
  · exact ⟨s, advance_idle hh hf, hmode, hg, .inr (.inr (.inr ⟨hf, hres⟩))⟩

theorem checking_tick {m : RadioMode} (hm : m ≠ .receive) (s : State) (h : s.checking m) :
    ∃ t, tick s = .next t ∧ t.checking m := by
  have hb := checking_boundary h
  cases hh : s.boundary.handler with
  | nil => exact checking_advance_fg hb hm hh
  | cons p rest => exact checking_advance_irq hb hm hh

/-- Outside Receive CAN_SEND answers a next state whatever interrupts come, and at its end whether the mode was Standby
(R111). -/
theorem exec_canSend_interrupted {m : RadioMode} (hf : s.faulted = false) (hi : s.idle = true)
    (hn : s.initialized = true) (hm : s.mode = m) (hr : m ≠ .receive) :
    ∃ t, exec .canSend s = .next t ∧ (t.idle = true → t.result = some (.bool (decide (m = .standby)))) := by
  have hh : s.handler = [] := (State.idle_iff.1 hi).2
  have hexec : exec .canSend s = launch [.canSendMode, .finish true] s := by
    change command none _ s = _
    simp [command, hf, hi, hn]
  have hstart : State.checking m { s with foreground := [.canSendMode, .finish true], result := none } :=
    ⟨hm, by rw [hh]; rfl, .inl rfl⟩
  obtain ⟨t, ht, hend⟩ := drive_next (checking_tick hr) (stepBudget s.cfg) _ hstart
  exact ⟨t, hexec.trans ht, fun hidle => hend.result (State.idle_iff.1 hidle).1⟩

/-- Settles O41: both modes are outside Receive. -/
theorem canSendInStandbyAndTransmit : Obligations.CanSendInStandbyAndTransmit :=
  fun _ hf hi hn => ⟨fun hm => exec_canSend_interrupted hf hi hn hm nofun,
    fun hm => exec_canSend_interrupted hf hi hn hm nofun⟩

end Sys2Proof.Machine
end

section
/-! PROOFS of the sender's family (spec 44_sender.md): SEND_FRAME and its transmit-complete wait, SEND and SEND_ACK
where the gate grants, ACK_RECEIVED, and SEND_WITH_RETRY with an answer, without one, and under interrupts. -/

namespace Sys2Proof.Machine

variable {s : State} {rest : List Micro}

/-! ### SEND_FRAME (R116, R119) -/

/-- A transition to Standby, the mapping, the frame and the transmit-complete wait, as one list of transactions
(R116 lines 2 to 11). -/
theorem reaches_sendFrame_transmits (h : s.running .fg) (a : Byte) (ha : s.localAddress = some a) (t : Byte)
    (p : List Byte) (ra sa : Bool) (w n : Nat) (hw : s.wakes s.mode 1 w) (hc : s.completes 0 n) :
    Reaches (sendFrameCost s.cfg w n) (s.atPos .fg (sendFrame s.cfg t p ra sa ++ rest))
      ((((s.io (s.setModeEvents .fg s.mode .standby 0 w
          ++ s.transmitEvents (encodeFrame t a (controlByte ra sa) p) (setModeReads s.mode .standby w))
        (setModeReads s.mode .standby w + 2)).polledLine (n + 1)).inMode .standby).atPos .fg rest) := by
  obtain ⟨-, hno, hyes⟩ := hc
  simp only [Nat.zero_add] at hno hyes
  have hsend := reaches_sendFrame (rest := rest) h a ha t p ra sa w n hw hno hyes
  simpa only [State.transmitEvents, List.append_assoc, List.cons_append] using hsend

/-- The budget covers a frame whose waits are within the poll bound, and the gate before it. -/
theorem sendFrameCost_le_budget (c : Cfg) {w n : Nat} (hw : w ≤ pollBound) (hn : n ≤ pollBound) :
    100 + setModeCost c 0 + sendFrameCost c w n ≤ stepBudget c := by
  have := cost_le_budget c (300 + 2 * pollBound) 4 (by decide) (by decide)
  unfold sendFrameCost setModeCost
  omega

/-- SEND_FRAME with at most one request flag (R116). -/
theorem exec_sendFrame_transmits {t a : Byte} {p : List Byte} {ra sa : Bool} {w n : Nat} (h : s.ready)
    (hflags : ackFlagsOk ra sa = true) (ha : s.localAddress = some a) (hw : s.wakes s.mode 1 w)
    (hc : s.completes 0 n) :
    exec (.sendFrame t p ra sa) s =
      .next { (s.io
          (s.setModeEvents .fg s.mode .standby 0 w
            ++ s.transmitEvents (encodeFrame t a (controlByte ra sa) p) (setModeReads s.mode .standby w))
          (setModeReads s.mode .standby w + 2)).polledLine (n + 1) with
        mode := .standby, result := some .unit } := by
  obtain ⟨k, hk, hwk, hr⟩ := State.wakes_bounded hw
  have hrun := running_launched h.1
  have hbudget : sendFrameCost s.cfg k n + 1 ≤ stepBudget s.cfg := by
    have := sendFrameCost_le_budget s.cfg hk hc.1
    omega
  have hexec : exec (.sendFrame t p ra sa) s = launch (sendFrame s.cfg t p ra sa ++ [.finish false]) s := by
    change command (if ackFlagsOk ra sa then none else some .bothAckFlags) _ s = _
    rw [hflags]
    exact command_ready h _
  rw [hexec, launch_finishes false (reaches_sendFrame_transmits hrun a ha t p ra sa k n hwk hc) hrun hbudget,
    ← State.setModeEvents_congr hr, ← setModeReads_congr hr, ← foreground_of_ready h]
  rfl

/-- Settles O37: with one flag at most the program runs to its end, with both the operands are out of range. -/
theorem sendFrameTransmits : Obligations.SendFrameTransmits := by
  intro s t p ra sa h
  refine ⟨fun a w n hflags ha hw hc => ?_, ?_⟩
  · rw [← Bool.and_eq_true, Bool.not_eq_true, ← Bool.not_eq_true'] at hflags
    exact exec_sendFrame_transmits h hflags ha hw hc
  · rintro rfl rfl
    exact command_refused h .bothAckFlags (sendFrame s.cfg t p true true ++ [.finish false])

/-- A poll of the ready line that gives 0 asks for another (R116 line 10). -/
theorem runs_waitLine_again {ctx : Context} (h : s.running ctx) (hno : s.lineAt 0 = false) :
    Runs 1 (s.atPos ctx (.waitLine :: rest)) ((s.polledLine 1).atPos ctx (.waitLine :: rest)) := by
  refine runs_micro h ?_
  simp only [runMicro, runWaitLine, State.lineAnswer_eq, State.atPos_lineAt, hno]
  cases ctx <;> simp [State.atPos, State.drawLine, State.polledLine, State.push]

/-- While the ready line reads 0 the transmit-complete wait goes on, one poll for each micro-step (R170). -/
theorem runs_waitLine {ctx : Context} (h : s.running ctx) (n : Nat) (hno : ∀ k < n, s.lineAt k = false) :
    Runs n (s.atPos ctx (.waitLine :: rest)) ((s.polledLine n).atPos ctx (.waitLine :: rest)) := by
  induction n generalizing s with
  | zero => exact fun _ => rfl
  | succ n ih =>
    intro j
    have hfirst := runs_waitLine_again (rest := rest) h (hno 0 n.succ_pos)
    have hrest := ih (s := s.polledLine 1) h fun k hk => by
      simpa [Nat.add_comm] using hno (k + 1) (by omega)
    rw [← Nat.add_assoc, hfirst, hrest, State.polledLine_polledLine, Nat.add_comm 1]

/-- Settles O38, by induction on the number of polls. -/
theorem transmitWaitHasNoTimeout : Obligations.TransmitWaitHasNoTimeout := by
  intro s rest n hf hq hh hno
  have h := runs_waitLine (ctx := .fg) (rest := rest) ⟨hq, hf, fun _ => hh⟩ n hno 0
  rwa [Nat.zero_add] at h

/-! ### SEND (R115) and SEND_ACK (R122) where the gate grants -/

/-- Transactions leave the gate's measurement to come as it is. -/
@[simp] theorem State.io_measured (s : State) (e : List BusEvent) (k : Nat) :
    (s.io e k).measured = s.measured.io e k := by
  unfold State.measured
  by_cases hm : s.mode = .receive ∧ s.slot.pendingLength = 0
  · rw [if_pos hm]
    exact if_pos hm
  · rw [if_neg hm]
    exact if_neg hm

/-- The last result plays no part in the gate's measurement. -/
theorem State.measured_withResult (s : State) (r : Option Result) :
    ({ s with result := r } : State).measured = { s.measured with result := r } := by
  unfold State.measured
  split <;> rfl

/-- The gate and the framed transmission from there, as one list of transactions (R113, R116). -/
def State.gated (s : State) (frame : List Byte) (n : Nat) : State :=
  (((s.measured.io (s.grantEvents 0 ++ s.transmitEvents frame s.grantReads) (s.grantReads + 2)).polledLine
    (n + 1)).withFlag true).inMode .standby

theorem State.gated_running {frame : List Byte} {n : Nat} (h : s.running .fg) : (s.gated frame n).running .fg := by
  unfold State.gated State.measured
  split <;> exact h

/-- The spin loop that grants, and the framed transmission, to the end of the transmit-complete wait. -/
theorem reaches_gated_completes (h : s.running .fg) (hg : s.grants) (a : Byte) (ha : s.localAddress = some a) (t : Byte)
    (p : List Byte) (ra sa : Bool) (n : Nat) (hc : s.completes 0 n) :
    Reaches (11 + setModeCost s.cfg 0 + sendFrameCost s.cfg 0 n)
      (s.atPos .fg (spinUntilClear ++ (sendFrame s.cfg t p ra sa ++ rest)))
      ((s.gated (encodeFrame t a (controlByte ra sa) p) n).atPos .fg rest) := by
  obtain ⟨-, hno, hyes⟩ := hc
  simp only [Nat.zero_add] at hno hyes
  simpa [State.gated, State.granted] using reaches_gated (rest := rest) h hg a ha t p ra sa n hno hyes

/-- `Send`: the restart write, and the gated transmission from there (R115). -/
theorem reaches_send (h : s.running .fg) (hg : s.grants) (a : Byte) (ha : s.localAddress = some a) (t : Byte)
    (p : List Byte) (ra : Bool) (n : Nat) (hc : s.completes 0 n) :
    Reaches (15 + setModeCost s.cfg 0 + sendFrameCost s.cfg 0 n) (s.atPos .fg (send s.cfg t p ra ++ rest))
      (((s.io (restartEvents .fg s.cfg (s.readAt 0)) 1).gated (encodeFrame t a (controlByte ra false) p) n).atPos .fg
        rest) := by
  have hrestart := reaches_restartWrite (rest := spinUntilClear ++ (sendFrame s.cfg t p ra false ++ rest)) h
  have hgated := reaches_gated_completes (rest := rest) (s := s.io (restartEvents .fg s.cfg (s.readAt 0)) 1) h hg a ha t
    p ra false n hc
  have hall := hrestart.trans hgated
  simp only [State.io_cfg, ← List.append_assoc] at hall
  exact hall.mono (by omega)

/-- What the restart write adds to the gated transmission: its transactions and its answer, in front. -/
theorem State.io_gated (s : State) (e : List BusEvent) (frame : List Byte) (n : Nat) :
    (s.io e 1).gated frame n =
      (((s.measured.io (e ++ s.grantEvents 1 ++ s.transmitEvents frame (1 + s.grantReads))
        (s.grantReads + 3)).polledLine (n + 1)).withFlag true).inMode .standby := by
  have hreads : (s.io e 1).grantReads = s.grantReads := rfl
  have hgrant : (s.io e 1).grantEvents 0 = s.grantEvents 1 := by simp [State.grantEvents]
  have htransmit : (s.io e 1).transmitEvents frame s.grantReads = s.transmitEvents frame (1 + s.grantReads) := by
    simp [State.transmitEvents, Nat.add_assoc]
  rw [State.gated, hreads, hgrant, htransmit, State.io_measured, State.io_io, List.append_assoc,
    show 1 + (s.grantReads + 2) = s.grantReads + 3 by omega]

/-- Settles O39: the restart write, the gate and the frame, within the budget. -/
theorem sendTransmitsWhenGranted : Obligations.SendTransmitsWhenGranted := by
  intro s t p ra a n h ha hg hc
  have hrun := running_launched h.1
  have hbudget : 15 + setModeCost s.cfg 0 + sendFrameCost s.cfg 0 n + 1 ≤ stepBudget s.cfg := by
    have := sendFrameCost_le_budget s.cfg (Nat.zero_le pollBound) hc.1
    omega
  refine (command_ready h _).trans
    ((launch_finishes false (reaches_send hrun hg a ha t p ra n hc) (State.gated_running hrun) hbudget).trans ?_)
  rw [State.io_gated, State.measured_withResult, ← foreground_of_ready h]
  unfold State.measured
  split <;> rfl

/-- `SendAck` line 1 fixes the target as the slot's sender, ahead of the spin loop (R122). -/
theorem runs_captureSender {ctx : Context} (h : s.running ctx) (p : List Byte) :
    Runs 1 (s.atPos ctx (.captureSender p :: rest))
      (s.atPos ctx (spinUntilClear ++ (sendFrame s.cfg s.slot.senderAddress p false true ++ rest))) :=
  runs_micro h (by simp [runMicro, runCaptureSender])

/-- SEND_ACK where the gate grants (R122). -/
theorem exec_sendAck_granted {p : List Byte} {a : Byte} {n : Nat} (h : s.ready) (ha : s.localAddress = some a)
    (hg : s.grants) (hc : s.completes 0 n) :
    exec (.sendAck p) s =
      .next { (s.measured.io
          (s.grantEvents 0 ++ s.transmitEvents (encodeFrame s.slot.senderAddress a 0x80 p) s.grantReads)
          (s.grantReads + 2)).polledLine (n + 1) with
        mode := .standby, flag := true, result := some .unit } := by
  have hrun := running_launched h.1
  have hbudget : 1 + (11 + setModeCost s.cfg 0 + sendFrameCost s.cfg 0 n) + 1 ≤ stepBudget s.cfg := by
    have := sendFrameCost_le_budget s.cfg (Nat.zero_le pollBound) hc.1
    omega
  have hcapture : Reaches 1 _ _ := ⟨1, Nat.le_refl 1, runs_captureSender (rest := [.finish false]) hrun p⟩
  have hsend := hcapture.trans (reaches_gated_completes hrun hg a ha s.slot.senderAddress p false true n hc)
  refine (command_ready h _).trans
    ((launch_finishes false hsend (State.gated_running hrun) hbudget).trans ?_)
  rw [State.gated, State.measured_withResult, ← foreground_of_ready h]
  unfold State.measured
  split <;> rfl

/-- Settles O40: the sender is captured first, and the gated transmission follows. -/
theorem sendAckRepliesToSender : Obligations.SendAckRepliesToSender :=
  ⟨fun _ _ _ _ h ha hg hc => exec_sendAck_granted h ha hg hc,
    fun _ p _ n hf hq hh => runs_captureSender (ctx := .fg) ⟨hq, hf, fun _ => hh⟩ p n⟩

/-! ### ACK_RECEIVED (R121) -/

theorem senderMatches_eq (sender fromAddress : Byte) :
    senderMatches sender fromAddress = decide (sender = fromAddress ∨ fromAddress = 0) := by
  simp [senderMatches, broadcast, Bool.beq_eq_decide_eq]

/-- `AckReceived` after its poll: a frame was found, its sender matches, and its ACK-reply flag is set (R121). -/
theorem reaches_ackSender {ctx : Context} (h : s.running ctx) (f : Byte) :
    Reaches 2 (s.atPos ctx (.ackSender f :: rest))
      ((s.withFlag ((s.flag && senderMatches s.slot.senderAddress f) && s.slot.ackReply)).atPos ctx rest) := by
  cases hm : s.flag && senderMatches s.slot.senderAddress f with
  | false =>
    have hsender : Reaches 1 (s.atPos ctx (.ackSender f :: rest)) (s.atPos ctx (.ret false :: rest)) :=
      reaches_micro h (by simp [runMicro, runAckSender, hm])
    exact hsender.trans (reaches_micro h (by cases ctx <;> rfl))
  | true =>
    have hsender : Reaches 1 (s.atPos ctx (.ackSender f :: rest)) (s.atPos ctx (.ackFlag :: rest)) :=
      reaches_micro h (by simp [runMicro, runAckSender, hm])
    exact hsender.trans (reaches_micro h (by cases ctx <;> rfl))

/-- A ready block answers ACK_RECEIVED from the state that its poll reaches, the window opened or closed (R104). -/
theorem exec_ackReceived_reaches {f : Byte} {t : State} {b : Nat} (h : s.ready)
    (hr : ∀ r, Reaches b (({ s.closeWindow with result := none } : State).atPos .fg (receiveDone ++ r)) (t.atPos .fg r))
    (ht : t.running .fg) (hb : b + 4 ≤ stepBudget s.cfg) :
    exec (.ackReceived f) s =
      .next { t with
        window := t.flag && t.mode == .standby
        flag := (t.flag && senderMatches t.slot.senderAddress f) && t.slot.ackReply
        result := some (.bool ((t.flag && senderMatches t.slot.senderAddress f) && t.slot.ackReply))
        foreground := [] } := by
  have hack := (reaches_openWindow (rest := [.ackSender f, .finish true]) ht).trans
    (reaches_ackSender (s := { t with window := t.flag && t.mode == .standby }) ht f)
  exact (command_ready (s := s.closeWindow) h _).trans
    (launch_finishes (s := s.closeWindow) true ((hr _).trans hack) ht hb)

/-- Settles O42, by the two paths of the poll. -/
theorem ackReceivedMatches : Obligations.AckReceivedMatches := by
  intro s f n h
  have hrun := running_launched (s := s.closeWindow) h.1
  refine ⟨fun hm hp => ?_, fun hm hw => ?_⟩
  · have hbudget := setModeCost_le_budget s.cfg (Nat.zero_le pollBound)
    rw [exec_ackReceived_reaches h (fun _ => reaches_receiveDone_found hrun hm ((Slot.pending_iff _).2 hp)) hrun
      (show 4 + setModeCost s.cfg 0 + 4 ≤ _ by omega), ← foreground_of_ready h, ← senderMatches_eq]
    rfl
  · obtain ⟨k, hk, hwk, he, hr⟩ := State.rearm_bounded hw .fg
    have hbudget := rearmCost_le_budget s.cfg hk
    rw [← Slot.pending_iff] at hm
    rw [exec_ackReceived_reaches h (fun _ => reaches_receiveDone_rearm hrun hm k hwk) hrun
      (show 4 + rearmCost s.cfg k + 4 ≤ _ by omega), ← foreground_of_ready h, ← he, ← hr]
    rfl

/-! ### The window's test (R120 line 5) -/

/-- Settles O45: the test is on the elapsed time modulo 2^32, and its two outcomes are lines 6 and 7. -/
theorem retryWindowIsStrict : Obligations.RetryWindowIsStrict := by
  intro s r t0 rest
  have helapsed : (s.nowAnswer.toNat + (2 ^ 32 - t0.toNat)) % 2 ^ 32 = (s.nowAnswer - t0).toNat := by
    rw [BitVec.toNat_sub, Nat.add_comm]
  rw [helapsed]
  change Host.Outcome.next (runWindowTest .fg r t0 { s with foreground := rest }) = _
  rw [runWindowTest, show ({ s with foreground := rest } : State).nowAnswer = s.nowAnswer from rfl]
  cases hw : withinWindow s.nowAnswer t0 r.perAttemptTimeout with
  | true =>
    rw [if_pos ((withinWindow_iff _ _ _).1 hw)]
    rfl
  | false =>
    rw [if_neg (Nat.not_lt.2 ((withinWindow_eq_false_iff _ _ _).1 hw))]
    rfl

/-! ### SEND_WITH_RETRY's own positions (R120) -/

theorem reaches_ret {ctx : Context} (h : s.running ctx) (b : Bool) :
    Reaches 1 (s.atPos ctx (.ret b :: rest)) ((s.withFlag b).atPos ctx rest) :=
  reaches_micro h (by cases ctx <;> rfl)

theorem reaches_startWindow (h : s.running .fg) (r : RetrySession) :
    Reaches 1 (s.atPos .fg (.startWindow r :: rest)) (s.drawNow.atPos .fg (.windowTest r (s.nowAt 0) :: rest)) :=
  reaches_micro h rfl

/-- Inside the window another poll follows (R120 line 6). -/
theorem reaches_windowTest_inside (h : s.running .fg) {r : RetrySession} {t0 : Millis}
    (hw : (s.nowAt 0 - t0).toNat < r.perAttemptTimeout.toNat) :
    Reaches 1 (s.atPos .fg (.windowTest r t0 :: rest))
      (s.drawNow.atPos .fg (retryPoll r.targetAddress ++ (.windowPoll r t0 :: rest))) := by
  refine reaches_micro h (congrArg Host.Outcome.next (if_pos ?_))
  exact (withinWindow_iff _ _ _).2 hw

/-- The window over, the attempt is used up (R120 line 7). -/
theorem reaches_windowTest_over (h : s.running .fg) {r : RetrySession} {t0 : Millis}
    (hw : r.perAttemptTimeout.toNat ≤ (s.nowAt 0 - t0).toNat) :
    Reaches 1 (s.atPos .fg (.windowTest r t0 :: rest)) (s.drawNow.atPos .fg (.retryLoop r.next :: rest)) := by
  refine reaches_micro h (congrArg Host.Outcome.next (if_neg (ne_true_of_eq_false ?_)))
  exact (withinWindow_eq_false_iff _ _ _).2 hw

/-- A poll that did not match leads back to the window's test (R120 line 5). -/
theorem reaches_windowPoll_again (h : s.running .fg) (hf : s.flag = false) (r : RetrySession) (t0 : Millis) :
    Reaches 1 (s.atPos .fg (.windowPoll r t0 :: rest)) (s.atPos .fg (.windowTest r t0 :: rest)) :=
  reaches_micro h (congrArg Host.Outcome.next (if_neg (ne_true_of_eq_false hf)))

/-- A poll that matched opens the host's reading window and ends with true (R120 line 6, R104). -/
theorem reaches_windowPoll_match (h : s.running .fg) (hf : s.flag = true) (r : RetrySession) (t0 : Millis) :
    Reaches 2 (s.atPos .fg (.windowPoll r t0 :: rest)) ((s.openWindow.withFlag true).atPos .fg rest) := by
  have hpoll : Reaches 1 (s.atPos .fg (.windowPoll r t0 :: rest)) (s.openWindow.atPos .fg (.ret true :: rest)) :=
    reaches_micro h (congrArg Host.Outcome.next (if_pos hf))
  exact hpoll.trans (reaches_ret (s := s.openWindow) h true)

/-- With no attempt left the loop ends with false (R120 line 8). -/
theorem reaches_retryLoop_over (h : s.running .fg) {r : RetrySession} (hr : r.attemptsRemaining = 0) :
    Reaches 2 (s.atPos .fg (.retryLoop r :: rest)) ((s.withFlag false).atPos .fg rest) := by
  have hloop : Reaches 1 (s.atPos .fg (.retryLoop r :: rest)) (s.atPos .fg (.ret false :: rest)) :=
    reaches_micro h (congrArg Host.Outcome.next (if_pos hr))
  exact hloop.trans (reaches_ret h false)

/-- With an attempt left the loop sends once more (R120 line 3). -/
theorem reaches_retryLoop_send (h : s.running .fg) {r : RetrySession} (hr : r.attemptsRemaining ≠ 0) :
    Reaches 1 (s.atPos .fg (.retryLoop r :: rest))
      (s.atPos .fg (send s.cfg r.targetAddress r.payload true ++ (.startWindow r :: rest))) := by
  refine reaches_micro h ((congrArg Host.Outcome.next (if_neg hr)).trans ?_)
  rw [State.atPos_push, List.append_assoc]
  rfl

/-! ### A matching acknowledgement (R120, R121) -/

/-- The state in which a window test with a matching acknowledgement pending leaves the block. -/
def State.matched (s : State) : State :=
  { s.drawNow.io (modeEvents .fg s.cfg .standby (s.readAt 0)) 1 with mode := .standby, window := true, flag := true }

/-- Inside the window a poll that finds the matching acknowledgement answers true (R120 line 6, R121 line 2). -/
theorem reaches_windowTest_match (h : s.running .fg) (hm : s.mode = .receive) (hp : s.slot.pendingLength ≠ 0)
    {r : RetrySession} {t0 : Millis} (hs : s.slot.senderAddress = r.targetAddress ∨ r.targetAddress = 0)
    (ha : s.slot.ackReply = true) (hw : (s.nowAt 0 - t0).toNat < r.perAttemptTimeout.toNat) :
    Reaches (9 + setModeCost s.cfg 0) (s.atPos .fg (.windowTest r t0 :: rest)) (s.matched.atPos .fg rest) := by
  have hsender : senderMatches s.slot.senderAddress r.targetAddress = true := by
    rw [senderMatches_eq, decide_eq_true hs]
  have htest := reaches_windowTest_inside (rest := rest) h hw
  have hpoll := reaches_retryPoll_match (rest := .windowPoll r t0 :: rest) (s := s.drawNow) h hm
    ((Slot.pending_iff _).2 hp) r.targetAddress hsender ha
  have hend := reaches_windowPoll_match (rest := rest)
    (s := ((s.drawNow.io (modeEvents .fg s.cfg .standby (s.readAt 0)) 1).withFlag true).inMode .standby) h rfl r t0
  exact ((htest.trans hpoll).trans hend).mono (by rw [State.drawNow_cfg]; omega)

/-- A SEND_WITH_RETRY that stands at such a window test ends with true, within half of a step's budget. -/
theorem drive_windowTest_match (h : s.running .fg) (hm : s.mode = .receive) (hp : s.slot.pendingLength ≠ 0)
    {r : RetrySession} {t0 : Millis} (hs : s.slot.senderAddress = r.targetAddress ∨ r.targetAddress = 0)
    (ha : s.slot.ackReply = true) (hw : (s.nowAt 0 - t0).toNat < r.perAttemptTimeout.toNat) {N : Nat}
    (hN : stepBudget s.cfg ≤ 2 * N) :
    drive N (s.atPos .fg [.windowTest r t0, .finish true]) =
      .next { s.matched with foreground := [], result := some (.bool true) } := by
  have hhandler : s.handler = [] := by
    obtain ⟨-, -, hh⟩ := h
    exact hh rfl
  have hbudget : 9 + setModeCost s.cfg 0 + 1 ≤ N := by
    have := setModeCost_le_budget s.cfg (Nat.zero_le pollBound)
    omega
  have hrun := (reaches_windowTest_match (rest := [.finish true]) h hm hp hs ha hw).trans
    (reaches_finish (s := s.matched) h true [])
  refine hrun.drive_eq ?_ hbudget
  simp [State.halted, State.idle, State.atPos, State.matched, State.io, hhandler]

/-- A run may be cut where it has answered a next state: what is left goes on from there (log entry 1). -/
theorem drive_add {m : Nat} {u v : State} (h : drive m u = .next v) (n : Nat) : drive (n + m) u = drive n v := by
  induction m generalizing u with
  | zero => cases h; rfl
  | succ m ih =>
    by_cases hu : u.halted = true
    · rw [drive_halted _ _ hu] at h ⊢
      cases h
      rw [drive_halted _ _ hu]
    · rw [← Nat.add_assoc]
      cases ht : tick u with
      | next w =>
        simp only [drive, hu, ht] at h ⊢
        exact ih h
      | fault f | refused f =>
        simp only [drive, hu, ht] at h
        cases h

/-- A run never changes the configuration (R10). -/
theorem drive_cfg {n : Nat} {s t : State} (h : drive n s = .next t) : t.cfg = s.cfg := by
  refine drive_inv (P := fun u => u.cfg = s.cfg) (fun u v hu hv => ?_) n s t rfl h
  rw [← hu, ← State.boundary_cfg u]
  rcases advance_advances hv with rfl | ⟨_, _, _, _, ha⟩
  · rfl
  · exact ha.changes.cfg

/-- An idle, initialized block launches SEND_WITH_RETRY, the reading window closed (R104). -/
theorem exec_sendWithRetry (hf : s.faulted = false) (hi : s.idle = true) (hn : s.initialized = true) (t : Byte)
    (p : List Byte) (retries : Byte) (timeout : BitVec 16) :
    exec (.sendWithRetry t p retries timeout) s =
      launch [.retryLoop ⟨attemptsOf retries, timeout, t, p⟩, .finish true] s.closeWindow := by
  have hidle : s.closeWindow.idle = true := hi
  change command none _ s.closeWindow = _
  simp [command, hf, hidle, hn]

/-- Settles O44: the test's run to its end, from there and as the rest of the whole command's run. -/
theorem retrySucceedsOnMatch : Obligations.RetrySucceedsOnMatch := by
  intro s r t0 hf hq hh hm hp hs ha hw
  have hmatch {N : Nat} := drive_windowTest_match (N := N) ⟨hq, hf, fun _ => hh⟩ hm hp hs ha hw
  refine ⟨hmatch (by omega), fun o t p retries timeout n hof hoi hon hn hrun hfg => ?_⟩
  have hcfg : s.cfg = o.cfg := (drive_cfg hrun :)
  have hpos : s = s.atPos .fg [.windowTest r t0, .finish true] := by
    rw [← hfg]
    rfl
  rw [exec_sendWithRetry hof hoi hon]
  change drive (stepBudget o.cfg) _ = _
  rw [show stepBudget o.cfg = (stepBudget o.cfg - n) + n by omega]
  refine (drive_add hrun _).trans ?_
  rw [hpos]
  exact hmatch (by rw [hcfg]; omega)

/-! ### Attempts without an answer (R120) -/

/-- The state `t` belongs to the same run of the foreground as `s`: what no attempt of SEND_WITH_RETRY changes. -/
structure State.SameRun (s t : State) : Prop where
  cfg : t.cfg = s.cfg
  localAddress : t.localAddress = s.localAddress
  foreground : t.foreground = s.foreground
  running : s.running .fg → t.running .fg

theorem State.SameRun.refl (s : State) : s.SameRun s :=
  ⟨rfl, rfl, rfl, id⟩

theorem State.SameRun.trans {s t u : State} (h : s.SameRun t) (h' : t.SameRun u) : s.SameRun u :=
  ⟨h'.cfg.trans h.cfg, h'.localAddress.trans h.localAddress, h'.foreground.trans h.foreground,
    fun hs => h'.running (h.running hs)⟩

theorem State.SameRun.drawNow (s : State) : s.SameRun s.drawNow :=
  ⟨rfl, rfl, rfl, id⟩

theorem State.sent_sameRun (s : State) (frame : List Byte) : s.SameRun (s.sent frame) :=
  ⟨State.sent_cfg frame, State.sent_localAddress frame, State.sent_foreground frame, State.sent_running frame⟩

theorem State.polled_sameRun (n : Nat) (s : State) : s.SameRun (s.polled n) := by
  induction n generalizing s with
  | zero => exact .refl s
  | succ n ih =>
    have hfirst : s.SameRun s.drawNow.rearmed := ⟨rfl, rfl, rfl, id⟩
    exact hfirst.trans (ih _)

theorem State.attempted_sameRun (s : State) (frame : List Byte) (n : Nat) : s.SameRun (s.attempted frame n) :=
  ((s.sent_sameRun frame).trans (.drawNow _)).trans ((State.polled_sameRun n _).trans (.drawNow _))

theorem State.afterAttempts_sameRun (frame : List Byte) (ns : List Nat) (s : State) :
    s.SameRun (s.afterAttempts frame ns) := by
  induction ns generalizing s with
  | nil => exact .refl s
  | cons n ns ih => exact (s.attempted_sameRun frame n).trans (ih _)

theorem State.polled_nowAt (n : Nat) (s : State) (k : Nat) : (s.polled n).nowAt k = s.nowAt (n + k) := by
  induction n generalizing s with
  | zero => rw [Nat.zero_add]; rfl
  | succ n ih =>
    rw [State.polled_succ, ih, State.rearmed_nowAt, State.drawNow_nowAt]
    congr 1
    omega

/-- The micro-steps of a window test whose poll finds no frame, at most. -/
def pollCost (c : Cfg) : Nat :=
  8 + rearmCost c 0

/-- The micro-steps of an attempt besides its polls, at most. -/
def attemptCost (c : Cfg) : Nat :=
  23 + setModeCost c 0 + sendFrameCost c 0 0

/-- A window test that holds, with its poll that finds no frame, comes back to the window test (R120 lines 5 and 6). -/
theorem reaches_windowTest_again (h : s.running .fg)
    (hm : s.mode = .standby ∨ s.mode = .receive ∧ s.slot.pending = false) {r : RetrySession} {t0 : Millis}
    (hw : (s.nowAt 0 - t0).toNat < r.perAttemptTimeout.toNat) :
    Reaches (pollCost s.cfg) (s.atPos .fg (.windowTest r t0 :: rest))
      (s.drawNow.rearmed.atPos .fg (.windowTest r t0 :: rest)) := by
  have htest := reaches_windowTest_inside (rest := rest) h hw
  have hpoll := reaches_retryPoll_empty (rest := .windowPoll r t0 :: rest) (s := s.drawNow) h hm r.targetAddress
  have hagain := reaches_windowPoll_again (rest := rest) (s := s.drawNow.rearmed) h rfl r t0
  exact ((htest.trans hpoll).trans hagain).mono (by rw [State.drawNow_cfg]; unfold pollCost; omega)

/-- As many such window tests as hold. -/
theorem reaches_polled (n : Nat) (h : s.running .fg)
    (hm : s.mode = .standby ∨ s.mode = .receive ∧ s.slot.pending = false) {r : RetrySession} {t0 : Millis}
    (hw : ∀ k < n, (s.nowAt k - t0).toNat < r.perAttemptTimeout.toNat) :
    Reaches (n * pollCost s.cfg) (s.atPos .fg (.windowTest r t0 :: rest))
      ((s.polled n).atPos .fg (.windowTest r t0 :: rest)) := by
  induction n generalizing s with
  | zero => exact .refl _ _
  | succ n ih =>
    have hfirst := reaches_windowTest_again (rest := rest) h hm (hw 0 n.succ_pos)
    have hrest := ih (s := s.drawNow.rearmed) h (.inr ⟨rfl, rfl⟩) fun k hk => by
      rw [State.rearmed_nowAt, State.drawNow_nowAt]
      exact hw (k + 1) (by omega)
    rw [State.polled_succ, Nat.succ_mul, Nat.add_comm]
    exact hfirst.trans hrest

/-- One attempt: the send, the window's start, its polls, and the test that fails (R120 lines 2 to 7). -/
theorem reaches_attempted (h : s.running .fg) (hg : s.grants) {a : Byte} (ha : s.localAddress = some a)
    (hl : s.lineAt 0 = true) {r : RetrySession} (hr : r.attemptsRemaining ≠ 0) {n : Nat}
    (hw : s.windowLasts r.perAttemptTimeout n) :
    Reaches (attemptCost s.cfg + n * pollCost s.cfg) (s.atPos .fg (.retryLoop r :: rest))
      ((s.attempted (encodeFrame r.targetAddress a 0x40 r.payload) n).atPos .fg (.retryLoop r.next :: rest)) := by
  obtain ⟨hinside, hover⟩ := hw
  set frame := encodeFrame r.targetAddress a 0x40 r.payload with hframe
  have hsent : (s.sent frame).running .fg := State.sent_running frame h
  have hloop := reaches_retryLoop_send (rest := rest) h hr
  have hsend := reaches_sent (rest := .startWindow r :: rest) h hg a ha hl r.targetAddress r.payload
  have hstart := reaches_startWindow (rest := rest) hsent r
  have hpolls := reaches_polled (rest := rest) (s := (s.sent frame).drawNow) (r := r) (t0 := s.nowAt 0) n hsent
    (.inl rfl) fun k hk => by simpa using hinside k hk
  have hend := reaches_windowTest_over (rest := rest) (s := (s.sent frame).drawNow.polled n) (r := r) (t0 := s.nowAt 0)
    ((State.polled_sameRun n _).running hsent) (by simpa [State.polled_nowAt] using hover)
  rw [State.sent_nowAt] at hstart
  rw [State.drawNow_cfg, State.sent_cfg] at hpolls
  exact ((((hloop.trans hsend).trans hstart).trans hpolls).trans hend).mono (by unfold attemptCost; omega)

/-- The session that has one attempt more than `k` has `k` after it (C4). -/
theorem RetrySession.next_attempts {r : RetrySession} {k : Nat} (h : r.attemptsRemaining.toNat = k + 1) :
    r.next.attemptsRemaining.toNat = k := by
  change (r.attemptsRemaining - 1).toNat = k
  bv_omega

/-- As many attempts as the session has, each without an answer, and the loop ends with false (R120). -/
theorem reaches_afterAttempts (ns : List Nat) (h : s.running .fg) {a : Byte} (ha : s.localAddress = some a)
    {r : RetrySession} (hr : r.attemptsRemaining.toNat = ns.length)
    (hfail : s.attemptsFail (encodeFrame r.targetAddress a 0x40 r.payload) r.perAttemptTimeout ns) :
    Reaches (ns.length * attemptCost s.cfg + ns.sum * pollCost s.cfg + 2) (s.atPos .fg (.retryLoop r :: rest))
      (((s.afterAttempts (encodeFrame r.targetAddress a 0x40 r.payload) ns).withFlag false).atPos .fg rest) := by
  induction ns generalizing s r with
  | nil => exact (reaches_retryLoop_over h (BitVec.eq_of_toNat_eq hr)).mono (by omega)
  | cons n ns ih =>
    obtain ⟨hg, hl, hw, hfail⟩ := hfail
    have hsame := s.attempted_sameRun (encodeFrame r.targetAddress a 0x40 r.payload) n
    have hsome : r.attemptsRemaining ≠ 0 := by
      intro h0
      rw [h0] at hr
      exact absurd hr (by simp)
    have hfirst := reaches_attempted (rest := rest) h hg ha hl hsome hw
    have hrest := ih (r := r.next) (hsame.running h) (hsame.localAddress.trans ha) (RetrySession.next_attempts hr) hfail
    rw [hsame.cfg] at hrest
    refine (hfirst.trans hrest).mono (Nat.le_of_eq ?_)
    rw [List.length_cons, List.sum_cons]
    ring

/-! ### The last result plays no part in an attempt (R70) -/

theorem State.polled_withResult (n : Nat) (s : State) (o : Option Result) :
    ({ s with result := o } : State).polled n = { s.polled n with result := o } := by
  induction n generalizing s with
  | zero => rfl
  | succ n ih => exact ih s.drawNow.rearmed

theorem State.attempted_withResult (s : State) (o : Option Result) (frame : List Byte) (n : Nat) :
    ({ s with result := o } : State).attempted frame n = { s.attempted frame n with result := o } := by
  have hsent : ({ s with result := o } : State).sent frame = { s.sent frame with result := o } := by
    rw [State.sent, State.measured_withResult]
    rfl
  rw [State.attempted, hsent]
  exact congrArg State.drawNow (State.polled_withResult n (s.sent frame).drawNow o)

theorem State.afterAttempts_withResult (frame : List Byte) (ns : List Nat) (s : State) (o : Option Result) :
    ({ s with result := o } : State).afterAttempts frame ns = { s.afterAttempts frame ns with result := o } := by
  induction ns generalizing s with
  | nil => rfl
  | cons n ns ih =>
    rw [State.afterAttempts, State.attempted_withResult, ih]
    rfl

theorem State.attemptsFail_withResult (frame : List Byte) (timeout : BitVec 16) {ns : List Nat} {s : State}
    (o : Option Result) (h : s.attemptsFail frame timeout ns) :
    ({ s with result := o } : State).attemptsFail frame timeout ns := by
  induction ns generalizing s with
  | nil => trivial
  | cons n ns ih =>
    obtain ⟨hg, hl, hw, hfail⟩ := h
    refine ⟨hg, hl, hw, ?_⟩
    rw [State.attempted_withResult]
    exact ih hfail

/-! ### SEND_WITH_RETRY without an answer (R120, R123) -/

theorem attemptsOf_toNat (retries : Byte) : (attemptsOf retries).toNat = retries.toNat + 1 := by
  unfold attemptsOf
  bv_omega

/-- The budget covers 256 attempts, and the polls of their windows within their bound. -/
theorem attempts_le_budget (c : Cfg) {k polls : Nat} (hk : k ≤ 256) (hp : polls ≤ retryPollBound) :
    k * attemptCost c + polls * pollCost c + 3 ≤ stepBudget c := by
  have hattempts := Nat.mul_le_mul_right (attemptCost c) hk
  have hpolls := Nat.mul_le_mul_right (pollCost c) hp
  have hbudget := cost_le_budget c 350000 12000 (by decide) (by decide)
  unfold attemptCost pollCost sendFrameCost rearmCost setModeCost retryPollBound at *
  omega

/-- SEND_WITH_RETRY with any timeout, each of its attempts without an answer. -/
theorem exec_sendWithRetry_unanswered {t a retries : Byte} {p : List Byte} {timeout : BitVec 16} {polls : List Nat}
    (h : s.ready) (ha : s.localAddress = some a) (hlen : polls.length = retries.toNat + 1)
    (hsum : polls.sum ≤ retryPollBound)
    (hfail : s.closeWindow.attemptsFail (encodeFrame t a 0x40 p) timeout polls) :
    exec (.sendWithRetry t p retries timeout) s =
      .next { s.closeWindow.afterAttempts (encodeFrame t a 0x40 p) polls with
        flag := false, result := some (.bool false) } := by
  have hrun := running_launched (s := s.closeWindow) h.1
  have hsame := State.afterAttempts_sameRun (encodeFrame t a 0x40 p) polls s.closeWindow
  have hbudget := attempts_le_budget s.cfg (k := polls.length) (by have := retries.isLt; omega) hsum
  have hattempts := reaches_afterAttempts (rest := [.finish true]) (r := ⟨attemptsOf retries, timeout, t, p⟩) polls hrun
    ha ((attemptsOf_toNat retries).trans hlen.symm) (State.attemptsFail_withResult _ _ none hfail)
  rw [State.afterAttempts_withResult] at hattempts
  refine (command_ready (s := s.closeWindow) h _).trans
    ((launch_finishes (s := s.closeWindow) true hattempts (hsame.running hrun) hbudget).trans ?_)
  have hfg : (s.closeWindow.afterAttempts (encodeFrame t a 0x40 p) polls).foreground = [] :=
    hsame.foreground.trans (foreground_of_ready h)
  rw [← hfg]
  rfl

/-! ### A timeout of 0 (R120, D21) -/

@[simp] theorem Source.drop_answerAt {α : Type} (q : Source α) (free : Nat → α) (j k : Nat) :
    (q.drop j).answerAt free k = q.answerAt free (j + k) := by
  simp only [Source.answerAt, Source.drop_drop]

/-- The state after `n` attempts from Standby whose windows hold for no poll. -/
def State.attemptsMade (s : State) (frame : List Byte) (n : Nat) : State :=
  { s with
    trace := s.trace ++ (List.range n).flatMap (s.attemptEvents frame)
    env := { s.env with
      reads := s.env.reads.drop (3 * n)
      line := s.env.line.drop n
      clock := s.env.clock.drop (2 * n) } }

/-- One attempt from Standby whose window holds for no poll: one send and two readings of the time base. -/
theorem State.attempted_zero (s : State) (hm : s.mode = .standby) (frame : List Byte) :
    s.attempted frame 0 = (s.attemptsMade frame 1).withFlag true := by
  have hmeasured : s.measured = s := if_neg (by simp [hm])
  have hevents : s.grantEvents 1 = [] := if_pos hm
  have hreads : s.grantReads = 0 := if_pos hm
  simp [State.attempted, State.polled, State.sent, hmeasured, hevents, hreads, State.attemptsMade, State.attemptEvents,
    State.withFlag, State.io, State.polledLine, State.drawNow, hm]

theorem State.attemptsMade_attemptEvents (s : State) (b : Bool) (frame : List Byte) (k : Nat) :
    ((s.attemptsMade frame 1).withFlag b).attemptEvents frame k = s.attemptEvents frame (k + 1) := by
  have hread (j : Nat) : ((s.attemptsMade frame 1).withFlag b).readAt j = s.readAt (3 + j) := by
    simp [State.attemptsMade, State.withFlag, State.readAt]
  rw [State.attemptEvents, State.attemptEvents, hread, show 3 * (k + 1) = 3 + 3 * k by omega]
  simp only [State.transmitEvents, hread, Nat.add_assoc]
  rfl

theorem State.attemptsMade_succ (s : State) (b : Bool) (frame : List Byte) (n : Nat) :
    ((s.attemptsMade frame 1).withFlag b).attemptsMade frame n = (s.attemptsMade frame (n + 1)).withFlag b := by
  rw [State.attemptsMade, funext (s.attemptsMade_attemptEvents b frame)]
  simp [State.attemptsMade, State.withFlag, List.range_succ_eq_map, List.flatMap_map, Nat.mul_add, Nat.add_comm]

theorem State.afterAttempts_replicate (frame : List Byte) (n : Nat) (s : State) (hm : s.mode = .standby) :
    (s.afterAttempts frame (List.replicate n 0)).withFlag false = (s.attemptsMade frame n).withFlag false := by
  induction n generalizing s with
  | zero => simp [State.afterAttempts, State.attemptsMade]
  | succ n ih =>
    rw [List.replicate_succ, State.afterAttempts, s.attempted_zero hm,
      ih ((s.attemptsMade frame 1).withFlag true) hm, State.attemptsMade_succ, State.withFlag_withFlag]

/-- From Standby with a timeout of 0 every attempt whose frame is complete at the first poll fails at once. -/
theorem State.attemptsFail_replicate (frame : List Byte) (n : Nat) (s : State) (hm : s.mode = .standby)
    (hl : ∀ k < n, s.lineAt k = true) : s.attemptsFail frame 0 (List.replicate n 0) := by
  induction n generalizing s with
  | zero => trivial
  | succ n ih =>
    refine ⟨.inl hm, hl 0 n.succ_pos, ⟨nofun, Nat.zero_le _⟩, ?_⟩
    rw [s.attempted_zero hm]
    refine ih _ hm fun k hk => ?_
    have hnext : ((s.attemptsMade frame 1).withFlag true).lineAt k = s.lineAt (k + 1) := by
      simp [State.attemptsMade, State.withFlag, State.lineAt, Nat.add_comm]
    rw [hnext]
    exact hl (k + 1) (by omega)

/-- SEND_WITH_RETRY from Standby with a timeout of 0. -/
theorem exec_sendWithRetry_zero {t a retries : Byte} {p : List Byte} (h : s.ready) (ha : s.localAddress = some a)
    (hm : s.mode = .standby) (hl : ∀ k ≤ retries.toNat, s.lineAt k = true) :
    exec (.sendWithRetry t p retries 0) s =
      .next { (s.closeWindow.attemptsMade (encodeFrame t a 0x40 p) (retries.toNat + 1)).withFlag false with
        result := some (.bool false) } := by
  rw [exec_sendWithRetry_unanswered h ha (List.length_replicate (a := 0)) (by simp)
    (State.attemptsFail_replicate _ _ s.closeWindow hm fun k hk => hl k (by omega)),
    ← State.afterAttempts_replicate _ _ s.closeWindow hm]
  rfl

/-! ### SEND_WITH_RETRY under interrupts (R144) -/

/-- A rest of SEND_WITH_RETRY: a position of its own loop, which may open the reading window, stands right before the
end of the command. -/
def retryRest : List Micro → Bool
  | [] => true
  | m :: rest => (!m.mayOpen || m != .openWindow && rest == [.finish true]) && retryRest rest

theorem retryRest_cons {m : Micro} {l : List Micro} :
    retryRest (m :: l) = true ↔
      (m.mayOpen = true → m ≠ .openWindow ∧ l = [.finish true]) ∧ retryRest l = true := by
  cases hm : m.mayOpen <;> simp [retryRest, hm]

theorem retryRest_append {a b : List Micro} (ha : a.all (fun m => !m.mayOpen) = true) (hb : retryRest b = true) :
    retryRest (a ++ b) = true := by
  induction a with
  | nil => exact hb
  | cons m a ih =>
    simp only [List.all_cons, Bool.and_eq_true, Bool.not_eq_true'] at ha
    obtain ⟨hm, ha⟩ := ha
    exact retryRest_cons.2 ⟨fun h => absurd h (by rw [hm]; nofun), ih ha⟩

/-- What follows a position of a rest of SEND_WITH_RETRY keeps it one. -/
theorem Follows.retryRest {m : Micro} {ms rest : List Micro} (h : Follows m ms) (hr : retryRest (m :: rest) = true) :
    retryRest (ms ++ rest) = true := by
  obtain ⟨hopen, hrest⟩ := retryRest_cons.1 hr
  cases hm : m.mayOpen with
  | false => exact retryRest_append (h.mayOpen hm) hrest
  | true =>
    obtain ⟨-, rfl⟩ := hopen hm
    cases h with
    | nothing | retryOver | retrySend | startWindow | windowOpen | windowOver | pollMatch | pollAgain => rfl
    | _ => cases hm

/-- SEND_WITH_RETRY is on its way to answering true, or has answered it. -/
def State.answeringTrue (s : State) : Prop :=
  s.foreground = [.ret true, .finish true]
    ∨ s.foreground = [.finish true] ∧ s.flag = true
    ∨ s.foreground = [] ∧ s.result = some (.bool true)

/-- SEND_WITH_RETRY is in flight or at its end: it has opened the reading window only on the way to answering true
(R144, R104). -/
structure State.retrying (s : State) : Prop where
  window : s.windowInv
  shape : retryRest s.foreground = true
  answer : s.window = true → s.answeringTrue

theorem retrying_boundary (h : s.retrying) : s.boundary.retrying := by
  obtain ⟨hw, hs, ha⟩ := h
  have hb := windowInv_boundary hw
  rcases boundary_cases s with ⟨p, l, he⟩ | ⟨-, l, he⟩ <;> rw [he] at hb ⊢
  exacts [⟨hb, hs, ha⟩, ⟨hb, hs, ha⟩]

theorem runRetryLoop_window (ctx : Context) (r : RetrySession) : (runRetryLoop ctx r s).window = s.window := by
  unfold runRetryLoop
  split <;> rw [State.push_window]

theorem runWindowTest_window (ctx : Context) (r : RetrySession) (t0 : Millis) :
    (runWindowTest ctx r t0 s).window = s.window := by
  unfold runWindowTest
  split <;> rw [State.push_window, State.drawNow_window]

/-- A position of the command's loop opens the window only with the answer true to come. -/
theorem answeringTrue_of_opens {m : Micro} {t : State} (hm : m.mayOpen = true) (hne : m ≠ .openWindow)
    (hw : s.window = false) (h : runMicro .fg m { s with foreground := [.finish true] } = .next t)
    (ht : t.window = true) : t.answeringTrue := by
  have hstays : t.window ≠ s.window := by rw [ht, hw]; nofun
  cases m with
  | openWindow => exact absurd rfl hne
  | retryLoop r => cases h; exact absurd (runRetryLoop_window .fg r) hstays
  | startWindow r => cases h; exact absurd rfl hstays
  | windowTest r t0 => cases h; exact absurd (runWindowTest_window .fg r t0) hstays
  | windowPoll r t0 =>
    have hrun : runWindowPoll .fg r t0 { s with foreground := [.finish true] } = t := Host.Outcome.next.inj h
    unfold runWindowPoll at hrun
    split at hrun
    · exact .inl (hrun ▸ rfl)
    · exact absurd (hrun ▸ rfl) hstays
  | _ => cases hm

/-- The end of SEND_WITH_RETRY that is to answer true goes on to it. -/
theorem answeringTrue_advance {t : State} (h : s.answeringTrue) (hh : s.handler = []) (ht : advance s = .next t) :
    t.answeringTrue := by
  rcases h with hf | ⟨hf, hflag⟩ | ⟨hf, hres⟩
  · rw [advance_fg hh hf] at ht
    cases ht
    exact .inr (.inl ⟨rfl, rfl⟩)
  · rw [advance_fg hh hf] at ht
    cases ht
    exact .inr (.inr ⟨rfl, congrArg (fun b => some (Result.bool b)) hflag⟩)
  · rw [advance_idle hh hf] at ht
    cases ht
    exact .inr (.inr ⟨hf, hres⟩)

/-- A micro-step of the foreground. -/
theorem retrying_advance_fg {m : Micro} {ms rest : List Micro} {t : State} (h : s.retrying)
    (ha : Advances .fg m ms rest s t) (ht : advance s = .next t) : t.retrying := by
  obtain ⟨hw, hs, hans⟩ := h
  have hb : s.foreground = m :: rest := ha.before
  have hh : s.handler = [] := ha.waits rfl
  rw [hb] at hs
  refine ⟨windowInv_advance hw ht, ?_, fun htw => ?_⟩
  · rw [show t.foreground = ms ++ rest from ha.after]
    exact ha.follows.retryRest hs
  · cases hsw : s.window with
    | true => exact answeringTrue_advance (hans hsw) hh ht
    | false =>
      have hm : m.mayOpen = true := by
        rcases ha.changes.window htw with ⟨hopen, -⟩ | ⟨hm, -⟩
        · rw [hsw] at hopen
          cases hopen
        · exact hm
      obtain ⟨hne, rfl⟩ := (retryRest_cons.1 hs).1 hm
      rw [advance_fg hh hb] at ht
      exact answeringTrue_of_opens hm hne hsw ht htw

/-- A micro-step of the interrupt context: with the window open it is the mode guard or the return, which leave the
command's answer alone. -/
theorem retrying_advance_irq {m : Micro} {ms rest : List Micro} {t : State} (h : s.retrying)
    (ha : Advances .irq m ms rest s t) (ht : advance s = .next t) : t.retrying := by
  obtain ⟨hw, hs, hans⟩ := h
  have hfg : t.foreground = s.foreground := ha.other
  refine ⟨windowInv_advance hw ht, by rwa [hfg], fun htw => ?_⟩
  obtain ⟨-, hclosed, hopen⟩ := hw
  rw [show s.handler = m :: rest from ha.before] at hclosed hopen
  simp only [List.all_cons, Bool.and_eq_true, Bool.not_eq_true', Bool.or_eq_true, beq_iff_eq] at hclosed hopen
  have hsw : s.window = true := by
    rcases ha.changes.window htw with ⟨hsw, -⟩ | ⟨hm, -⟩
    · exact hsw
    · rw [hclosed.1] at hm
      cases hm
  obtain ⟨-, ⟨hm, -⟩, -⟩ := hopen hsw
  have hflag : t.flag = s.flag := ha.changes.flag.resolve_right (by rcases hm with rfl | rfl <;> nofun)
  have hres : t.result = s.result := ha.changes.result.resolve_right (by rcases hm with rfl | rfl <;> nofun)
  unfold State.answeringTrue
  rw [hfg, hflag, hres]
  exact hans hsw

theorem retrying_tick {t : State} (h : s.retrying) (ht : tick s = .next t) : t.retrying := by
  have hb := retrying_boundary h
  rcases advance_advances ht with rfl | ⟨ctx, m, ms, rest, ha⟩
  · exact hb
  · cases ctx with
    | fg => exact retrying_advance_fg hb ha ht
    | irq => exact retrying_advance_irq hb ha ht

/-- A SEND_WITH_RETRY that has run to its end leaves the window open only where it answered true, whatever interrupts
came (R144). -/
theorem result_of_sendWithRetry {u : State} {t : Byte} {p : List Byte} {retries : Byte} {timeout : BitVec 16}
    (h : exec (.sendWithRetry t p retries timeout) s = .next u) (hi : u.idle = true) (hw : u.window = true) :
    u.result = some (.bool true) := by
  change command none _ s.closeWindow = _ at h
  obtain ⟨hidle, hrun⟩ := command_next h
  have hclosed : s.handler.all (fun m => !m.mayOpen) = true := by
    rw [show s.handler = [] from (State.idle_iff.1 hidle).2]
    rfl
  have hstart : State.retrying { s.closeWindow with
      foreground := [.retryLoop ⟨attemptsOf retries, timeout, t, p⟩, .finish true], result := none } :=
    ⟨⟨rfl, hclosed, nofun⟩, rfl, nofun⟩
  obtain ⟨-, -, hans⟩ := drive_inv (fun _ _ => retrying_tick) _ _ _ hstart hrun
  have hf := (State.idle_iff.1 hi).1
  rcases hans hw with hret | ⟨hfin, -⟩ | ⟨-, hres⟩
  · rw [hf] at hret
    cases hret
  · rw [hf] at hfin
    cases hfin
  · exact hres

/-- Settles O43: without an answer every attempt is used up, and only a match opens the window. -/
theorem retryExhaustsItsAttempts : Obligations.RetryExhaustsItsAttempts :=
  ⟨fun _ _ _ _ _ h ha => ⟨exec_sendWithRetry_zero h ha, fun _ _ => exec_sendWithRetry_unanswered h ha⟩,
    fun _ _ _ _ _ _ => result_of_sendWithRetry⟩

end Sys2Proof.Machine
end

section
/-! PROOFS of the configuration operations' family (spec 45_config_ops.md): INITIALIZE, SET_ADDRESS, PROMISCUOUS,
SET_POWER_LEVEL and SET_ENCRYPTION_KEY, each from a block in which no interrupt cuts in. -/

namespace Sys2Proof.Machine

variable {s : State} {rest : List Micro}

/-- A command without a value answers with the state its program reaches ahead of `finish`, no command in flight. -/
theorem command_finishes {program : List Micro} {b : Nat} {t : State} (h : s.ready)
    (hr : Reaches b (({ s with result := none } : State).atPos .fg program) (t.atPos .fg [.finish false]))
    (ht : t.running .fg) (hb : b + 1 ≤ stepBudget s.cfg) :
    command none program s = .next { t with result := some .unit, foreground := s.foreground } := by
  rw [command_ready h, launch_finishes false hr ht hb, foreground_of_ready h]
  rfl

/-- The budget covers a `SetMode` whose wait is within the poll bound, and up to a thousand micro-steps beside it. -/
theorem setModeCost_add_le_budget (c : Cfg) {a : Nat} (ha : a ≤ 1000) : setModeCost c pollBound + a ≤ stepBudget c := by
  have := cost_le_budget c (1009 + pollBound) 1 (by decide) (by decide)
  unfold setModeCost
  omega

/-! ### The positions that write one field -/

section
variable {ctx : Context} (h : s.running ctx)
include h

theorem reaches_putLocalAddress (a : Byte) :
    Reaches 1 (s.atPos ctx (.putLocalAddress a :: rest)) ({ s with localAddress := some a }.atPos ctx rest) :=
  reaches_micro h (by cases ctx <;> rfl)

theorem reaches_putNetworkId (n : Byte) :
    Reaches 1 (s.atPos ctx (.putNetworkId n :: rest)) ({ s with networkId := some n }.atPos ctx rest) :=
  reaches_micro h (by cases ctx <;> rfl)

theorem reaches_putPromiscuous (on : Bool) :
    Reaches 1 (s.atPos ctx (.putPromiscuous on :: rest)) ({ s with promiscuous := on }.atPos ctx rest) :=
  reaches_micro h (by cases ctx <;> rfl)

theorem reaches_putPowerLevel (level : BitVec 5) :
    Reaches 1 (s.atPos ctx (.putPowerLevel level :: rest)) ({ s with powerLevel := some level }.atPos ctx rest) :=
  reaches_micro h (by cases ctx <;> rfl)

theorem reaches_putInitialized :
    Reaches 1 (s.atPos ctx (.putInitialized :: rest)) ({ s with initialized := true }.atPos ctx rest) :=
  reaches_micro h (by cases ctx <;> rfl)

/-- The configuration blob's result is the flag (R130 line 1). -/
theorem reaches_configBlob (band nodeId networkId : Byte) :
    Reaches 1 (s.atPos ctx (.configBlob band nodeId networkId :: rest))
      ((s.drawBlob.withFlag (s.blobAnswer band nodeId networkId)).atPos ctx rest) :=
  reaches_micro h (by cases ctx <;> rfl)

end

/-! ### SET_ADDRESS and PROMISCUOUS (R131, R133) -/

/-- Settles O19: its program is one write of the identity. -/
theorem setAddressWritesIdentity : Obligations.SetAddressWritesIdentity := by
  intro s a h
  have hrun := running_launched h.1
  exact command_finishes h (reaches_putLocalAddress hrun a) hrun (small_le_budget s.cfg 2 (by decide))

/-- Settles O20: its program is one write of the filter override. -/
theorem promiscuousWritesFlag : Obligations.PromiscuousWritesFlag := by
  intro s on h
  have hrun := running_launched h.1
  exact command_finishes h (reaches_putPromiscuous hrun on) hrun (small_le_budget s.cfg 2 (by decide))

/-! ### SET_POWER_LEVEL (R132) -/

/-- A level up to 31 fits the field's five bits. -/
theorem setWidth_five_eight {level : Byte} (hl : level.toNat ≤ 31) : (level.setWidth 5).setWidth 8 = level := by
  apply BitVec.eq_of_toNat_eq
  rw [BitVec.toNat_setWidth, BitVec.toNat_setWidth]
  omega

/-- `SetPowerLevel` stores the level, and then writes the field inside its critical section (R132 lines 2 to 6). -/
theorem reaches_setPowerLevel (h : s.running .fg) {level : Byte} (hl : level.toNat ≤ 31) :
    Reaches 5 (s.atPos .fg (setPowerLevel s.cfg (level.setWidth 5) ++ rest))
      (({ s.io (rmwEvents .fg s.cfg.regmap.aPalevel s.cfg.regmap.mPalevel level (s.readAt 0)) 1 with
          powerLevel := some (level.setWidth 5) } : State).atPos .fg rest) := by
  rw [setPowerLevel, setWidth_five_eight hl]
  exact (reaches_putPowerLevel h (level.setWidth 5)).trans
    (reaches_critical_modify (s := { s with powerLevel := some (level.setWidth 5) }) h
      s.cfg.regmap.aPalevel (~~~s.cfg.regmap.mPalevel) level)

/-- Settles O21: up to 31 the program runs to its end, above 31 the operand is out of range. -/
theorem setPowerLevelWritesField : Obligations.SetPowerLevelWritesField := by
  intro s level h
  refine ⟨fun hl => ?_, fun hl => ?_⟩
  · have hrun := running_launched h.1
    have hin : levelInRange level = true := decide_eq_true hl
    change command (if levelInRange level then none else _) _ s = _
    rw [if_pos hin]
    exact command_finishes h (reaches_setPowerLevel hrun hl) hrun (small_le_budget s.cfg 6 (by decide))
  · change command (if levelInRange level then none else _) _ s = _
    rw [levelInRange_eq_false hl]
    exact command_refused h .powerLevelRange _

/-! ### SET_ENCRYPTION_KEY (R134) -/

/-- Plain writes and a read-modify-write after them, inside one critical section. -/
theorem reaches_critical_writes_modify {ctx : Context} (h : s.running ctx) (l : List (Addr × Byte)) (a : Addr)
    (mask value : Byte) :
    Reaches (l.length + 4) (s.atPos ctx (critical (writes l ++ [modifyField a mask value]) ++ rest))
      ((s.io (l.map (fun p => wr ctx p.1 p.2) ++ rmwEvents ctx a mask value (s.readAt 0)) 1).atPos ctx rest) := by
  refine reaches_critical h (b := l.length + 2) fun r => ?_
  have hwrites := reaches_writes (s := s.enterCritical) (rest := modifyField a mask value :: r) h l
  have hmodify := reaches_modify (s := s.enterCritical.io (l.map fun p => wr ctx p.1 p.2) 0) (rest := r) h a (~~~mask)
    value
  rw [State.io_io, State.io_readAt, Nat.zero_add, Nat.zero_add] at hmodify
  rw [List.append_assoc]
  exact hwrites.trans hmodify

/-- SET_ENCRYPTION_KEY with an operand in range: the transition to Standby, and then its program's plain writes and the
cipher bit's read-modify-write (R134 lines 2 to 8). -/
theorem exec_setEncryptionKey_runs {key : Option (List Byte)} {l : List (Addr × Byte)} {value : Byte} {n : Nat}
    (h : s.ready) (hw : s.wakes s.mode 1 n) (hkey : keyLengthOk key = true) (hl : l.length ≤ 16)
    (hp : setEncryptionKey s.cfg key = .setMode 1 ::
      critical (writes l ++ [modifyField s.cfg.regmap.aCipher s.cfg.regmap.bCipherOn value])) :
    exec (.setEncryptionKey key) s =
      .next { s.io
          (s.setModeEvents .fg s.mode .standby 0 n
            ++ l.map (fun p => wr .fg p.1 p.2)
            ++ rmwEvents .fg s.cfg.regmap.aCipher s.cfg.regmap.bCipherOn value
                (s.readAt (setModeReads s.mode .standby n)))
          (setModeReads s.mode .standby n + 1) with
        mode := .standby, result := some .unit } := by
  have hrun := running_launched h.1
  have hmode := reaches_setMode_bounded hrun modeOf_one (fun _ => hw)
    (rest := critical (writes l ++ [modifyField s.cfg.regmap.aCipher s.cfg.regmap.bCipherOn value]) ++ [.finish false])
  have hcipher := reaches_critical_writes_modify (rest := [.finish false])
    (s := (({ s with result := none } : State).io (s.setModeEvents .fg s.mode .standby 0 n)
      (setModeReads s.mode .standby n)).inMode .standby)
    hrun l s.cfg.regmap.aCipher s.cfg.regmap.bCipherOn value
  rw [State.io_inMode, State.io_io, State.inMode_readAt, State.io_readAt, ← List.append_assoc] at hcipher
  change command (if keyLengthOk key then none else _) (setEncryptionKey s.cfg key ++ [.finish false]) s = _
  rw [if_pos hkey, hp]
  exact command_finishes h (hmode.trans hcipher) hrun (setModeCost_add_le_budget s.cfg (a := l.length + 5) (by omega))

/-- Settles O22: a key's bytes are the plain writes, without a key there are none; a key of another length is out of
range. -/
theorem setEncryptionKeyLoadsKey : Obligations.SetEncryptionKeyLoadsKey := by
  intro s n h hw
  refine ⟨fun k hk => ?_, ?_, fun k hk => ?_⟩
  · have hlen : (keyWrites s.cfg.regmap.aKey0 k).length ≤ 16 := by simp [keyWrites, hk]
    have hmap : (keyWrites s.cfg.regmap.aKey0 k).map (fun p => wr .fg p.1 p.2) =
        k.zipIdx.map (fun p => wr .fg (s.cfg.regmap.aKey0 + p.2) p.1) := List.map_map
    rw [exec_setEncryptionKey_runs (key := some k) h hw (beq_iff_eq.2 hk) hlen rfl, hmap]
  · rw [exec_setEncryptionKey_runs (l := []) h hw rfl (Nat.zero_le 16) rfl, List.map_nil, List.append_nil]
  · change command (if keyLengthOk (some k) then none else _) _ s = _
    rw [keyLengthOk_eq_false hk]
    exact command_refused h .keyLength _

/-! ### INITIALIZE (R130) -/

/-- The state with the identity INITIALIZE writes, the configuration blob's result as the flag (R130 lines 1 to 4). -/
def State.identified (s : State) (band nodeId networkId : Byte) : State :=
  { s.drawBlob.withFlag (s.blobAnswer band nodeId networkId) with
    localAddress := some nodeId, networkId := some networkId, promiscuous := false }

/-- The configuration blob and the three fields of the identity, one after the other. -/
theorem reaches_identified (h : s.running .fg) (band nodeId networkId : Byte) :
    Reaches 4 (s.atPos .fg (.configBlob band nodeId networkId :: .putLocalAddress nodeId :: .putNetworkId networkId ::
      .putPromiscuous false :: rest)) ((s.identified band nodeId networkId).atPos .fg rest) := by
  have hblob := reaches_configBlob h band nodeId networkId
    (rest := .putLocalAddress nodeId :: .putNetworkId networkId :: .putPromiscuous false :: rest)
  refine ((hblob.trans (reaches_putLocalAddress ?_ nodeId)).trans (reaches_putNetworkId ?_ networkId)).trans
    (reaches_putPromiscuous ?_ false) <;> exact h

/-- The state in which INITIALIZE's program comes to its `finish`, a wait from Sleep ending at its `n + 1`st read
(R130). -/
def State.afterInitialize (s : State) (band nodeId networkId : Byte) (n : Nat) : State :=
  { ((((s.identified band nodeId networkId).withSlot s.slot.cleared false).io
      (s.setModeEvents .fg s.mode .standby 0 n) (setModeReads s.mode .standby n)).inMode .standby) with
    initialized := true }

/-- INITIALIZE's program up to its `finish`: the identity, the slot's scalars, the transition to Standby (R130). -/
theorem reaches_initBlock (h : s.running .fg) (band nodeId networkId : Byte) {n : Nat} (hw : s.wakes s.mode 1 n) :
    Reaches (10 + setModeCost s.cfg pollBound + 1) (s.atPos .fg (initBlock band nodeId networkId))
      ((s.afterInitialize band nodeId networkId n).atPos .fg [.finish true]) := by
  have hclear := (reaches_identified h band nodeId networkId).trans
    (reaches_receiveSlotClear (rest := .setMode 1 :: .putInitialized :: [.finish true]) h)
  have hmode := hclear.trans (reaches_setMode_bounded
    (s := (s.identified band nodeId networkId).withSlot s.slot.cleared false) h modeOf_one (fun _ => hw))
  exact hmode.trans (reaches_putInitialized h)

/-- Settles O18: INITIALIZE is admitted whether or not it has run, and its program runs to its end. -/
theorem initializeSetsIdentity : Obligations.InitializeSetsIdentity := by
  intro s band nodeId networkId n h hw
  obtain ⟨hf, hfg, hh, hq⟩ := h
  have hrun : ({ s.closeWindow with result := none } : State).running .fg := ⟨hq, hf, fun _ => hh⟩
  have hexec : exec (.initBlock band nodeId networkId) s =
      launch (initBlock band nodeId networkId) s.closeWindow := by
    simp [exec, execInitBlock, hf, State.idle, hfg, hh]
  have hbudget := setModeCost_add_le_budget s.cfg (a := 12) (by decide)
  rw [hexec, launch_finishes true (reaches_initBlock hrun band nodeId networkId hw) hrun
    (show 10 + setModeCost s.cfg pollBound + 1 + 1 ≤ stepBudget s.cfg by omega), ← hfg]
  rfl

end Sys2Proof.Machine
end

section
/-! PROOFS of the exceptions' family (spec 60_exceptions.md): the frames ON_READY_EDGE drops, the interrupt's entry and
return, the two contexts while the interrupt context runs, and the cut of a run. -/

namespace Sys2Proof.Machine

variable {s : State}

/-! ### Frames that ON_READY_EDGE drops (R141, R142) -/

/-- The block after a frame dropped at its `n`th FIFO read: the drain, the reads, and the re-arm (R100 lines 5 and 8,
R102). -/
def State.dropped (s : State) (n : Nat) : State :=
  (s.io (s.drainEvents .irq ++ ((s.fifoBytes 2 n).map (fun b => rd .irq s.cfg.regmap.aFifo b)
      ++ s.rearmEvents .irq .standby (2 + n) 0))
    (2 + n + s.rearmReads .standby (2 + n) 0)).withSlot s.slot.cleared false

theorem State.draining_rearmEvents (s : State) (p : Nat) :
    s.draining.rearmEvents .irq .standby p 0 = s.rearmEvents .irq .standby (2 + p) 0 :=
  State.io_rearmEvents { s with irqEnabled := false } (s.drainEvents .irq) 2 .irq .standby p 0

theorem State.draining_rearmReads (s : State) (p : Nat) :
    s.draining.rearmReads .standby p 0 = s.rearmReads .standby (2 + p) 0 :=
  State.io_rearmReads { s with irqEnabled := false } (s.drainEvents .irq) 2 .standby p 0

/-- Where the drain comes to the return through `n` FIFO reads and the re-arm, the event answers with that block: its
mode is Receive, as the edge met it. -/
theorem exec_onReadyEdge_drops {n b : Nat} (h : s.accepting) (he : s.irqEnabled = true) (hm : s.mode = .receive)
    (hr : Reaches b (({ s with irqEnabled := false } : State).atPos .irq [.edgeGuard, .irqReturn])
      ((((s.draining.io ((s.fifoBytes 2 n).map (fun b => rd .irq s.cfg.regmap.aFifo b)
          ++ s.draining.rearmEvents .irq .standby n 0) (n + s.draining.rearmReads .standby n 0)).withSlot
        s.slot.cleared false).inMode .receive).atPos .irq [.irqReturn]))
    (hb : b ≤ 16 + 2 * setModeCost s.cfg 0) : exec .onReadyEdge s = .next (s.dropped n) := by
  have hbudget := setModeCost_le_budget s.cfg (Nat.zero_le pollBound)
  rw [State.draining_rearmEvents, State.draining_rearmReads, State.draining, State.io_inMode, State.io_io,
    ← Nat.add_assoc, ← hm] at hr
  exact exec_onReadyEdge_returns (t := s.dropped n) h he hr h he (by omega)

/-- What a drop costs beside the two mode changes (R100 lines 1 to 8, R102). -/
theorem dropCost_le (c : Cfg) {a : Nat} (ha : a ≤ 4) :
    a + setModeCost c 0 + (2 + rearmCost c 0) ≤ 16 + 2 * setModeCost c 0 := by
  unfold rearmCost
  omega

/-- Settles O32: the drain to the length byte, and the discard of a length below 3. -/
theorem edgeDropsMalformed : Obligations.EdgeDropsMalformed := by
  intro s h he hm hp hl
  have hlen : s.draining.readAt 0 = s.readAt 2 := s.draining_readAt 0
  have hdiscard := reaches_popLength_malformed (rest := [.irqReturn]) (running_draining h) rfl (by rwa [hlen])
  rw [hlen] at hdiscard
  exact exec_onReadyEdge_drops (n := 1) h he hm ((reaches_draining h hm hp).trans hdiscard)
    (dropCost_le s.cfg (by decide))

/-- Settles O33: the drain to the filter, and the discard of a target it rejects. -/
theorem edgeDropsFiltered : Obligations.EdgeDropsFiltered := by
  intro s a h he hm hp h3 h64 hprom hloc ha hb
  have hreject : filterAccepts s.promiscuous s.localAddress (s.readAt 3) = some false := by
    rw [hprom, hloc, filterAccepts_selective, decide_eq_false (not_or.2 ⟨ha, hb⟩)]
  have hdiscard := reaches_applyFilter_reject (s := s.filtering) (rest := [.irqReturn]) (running_draining h) rfl
    (s.readAt 2) (s.readAt 3) hreject
  have hrun := (reaches_filtering h hm hp h3 h64).trans hdiscard
  rw [State.filtering, State.io_rearmEvents, State.io_rearmReads, State.io_io] at hrun
  exact exec_onReadyEdge_drops (n := 2) h he hm hrun (dropCost_le s.cfg (by decide))

/-! ### A boundary, and the interrupt's entry (R145, R148) -/

theorem State.takeInterrupt_true (he : s.irqEnabled = true) (hp : s.irqPending = true) :
    s.takeInterrupt true = s.enterInterrupt := by
  simp [State.takeInterrupt, he, hp]

theorem State.takeInterrupt_left {take : Bool} (h : take = false ∨ s.irqEnabled = false ∨ s.irqPending = false) :
    s.takeInterrupt take = s := by
  rcases h with h | h | h <;> simp [State.takeInterrupt, h]

/-- A listed boundary latches its edge, then offers the interrupt (R23, R146). -/
theorem State.boundary_cons {b : Boundary} {l : List Boundary} (h : s.env.boundaries = b :: l) :
    s.boundary = State.takeInterrupt
      { s with irqPending := s.irqPending || b.edge, env := { s.env with boundaries := l } } b.take := by
  cases hb : b.edge <;> simp [State.boundary, State.edge, h, hb]

/-- Settles O47: the boundary's edge is latched first, and the interrupt is taken or left; the return is one
micro-step. -/
theorem interruptEntryAndReturn : Obligations.InterruptEntryAndReturn := by
  intro s b l hbl
  refine ⟨fun ht he hp => ?_, fun h => ?_, rfl⟩
  · rw [State.boundary_cons hbl, ht]
    exact State.takeInterrupt_true he (Bool.or_eq_true_iff.2 hp)
  · rw [State.boundary_cons hbl]
    exact State.takeInterrupt_left (h.imp_right (Or.imp_right fun ⟨hp, he⟩ => Bool.or_eq_false_iff.2 ⟨hp, he⟩))

/-! ### The foreground while the interrupt context runs (R146) -/

@[simp] theorem State.boundary_foreground (s : State) : s.boundary.foreground = s.foreground := by
  rcases boundary_cases s with ⟨p, l, h⟩ | ⟨-, l, h⟩ <;> rw [h]

/-- No boundary ends the interrupt context. -/
theorem State.boundary_handler_ne_nil (h : s.handler ≠ []) : s.boundary.handler ≠ [] := by
  rcases boundary_cases s with ⟨p, l, hb⟩ | ⟨-, l, hb⟩ <;> rw [hb]
  · exact h
  · exact List.cons_ne_nil _ _

theorem advance_foreground {t : State} (hh : s.handler ≠ []) (h : advance s = .next t) :
    t.foreground = s.foreground := by
  rcases advance_advances h with rfl | ⟨ctx, m, ms, rest, ha⟩
  · rfl
  · cases ctx with
    | fg => exact absurd (ha.waits rfl) hh
    | irq => exact ha.other

/-- Settles O49: the boundary leaves the interrupt context running, whose micro-step comes next. -/
theorem foregroundWaitsForHandler : Obligations.ForegroundWaitsForHandler :=
  fun s _ hh h => (advance_foreground (State.boundary_handler_ne_nil hh) h).trans s.boundary_foreground

/-! ### The interrupt context is entered once (R149) -/

theorem disciplined_boundary (hs : s.disciplined) : s.boundary.disciplined := by
  rcases boundary_cases s with ⟨p, l, hb⟩ | ⟨he, l, hb⟩
  · exact hb ▸ hs
  · exact hb ▸ disciplined_entry he hs

theorem tick_disciplined {t : State} (hs : s.disciplined) (h : tick s = .next t) : t.disciplined := by
  rcases advance_advances h with rfl | ⟨ctx, m, ms, rest, ha⟩
  · exact disciplined_boundary hs
  · exact disciplined_advances (disciplined_boundary hs) ha

/-- While the interrupt context runs, delivery is off and every open section restores "off". -/
theorem State.disciplined.of_handler (hs : s.disciplined) (hh : s.handler ≠ []) :
    s.irqEnabled = false ∧ ∀ c ∈ s.saved, c = false := by
  obtain ⟨-, he, -, -, hsaved, -⟩ := (disciplined_iff_of_handler hh).1 hs
  exact ⟨he, hsaved⟩

/-- With delivery off no boundary enters an interrupt. -/
theorem State.boundary_handler_of_masked (he : s.irqEnabled = false) : s.boundary.handler = s.handler := by
  rcases boundary_cases s with ⟨p, l, hb⟩ | ⟨he', -⟩
  · rw [hb]
  · rw [he] at he'
    cases he'

/-- The fault ends the run where it is raised (R106). -/
theorem tick_raiseOversize {rest : List Micro} (hh : s.boundary.handler = .raiseOversize :: rest) :
    tick s = .next { s.boundary with faulted := true, handler := rest } :=
  advance_irq hh

/-- Settles O56: delivery is off by the discipline, which a tick keeps, and neither a boundary nor an edge enters an
interrupt then. -/
theorem handlerIsNotReentered : Obligations.HandlerIsNotReentered := by
  intro s hs hh
  obtain ⟨he, hsaved⟩ := hs.of_handler hh
  have hbound := State.boundary_handler_of_masked he
  refine ⟨he, hsaved, hbound, fun hf => maskedEdgeIsLatched s hf he, fun t ht hth => ?_, fun rest hr => ?_⟩
  · exact ((tick_disciplined hs ht).of_handler hth).1
  · exact ⟨_, tick_raiseOversize (hbound.trans hr), rfl, fun n => drive_halted n _ rfl⟩

/-! ### The cut of a run (log entry 1) -/

/-- A run that stops does so however many micro-steps it might go on for. -/
theorem drive_add_of_stops {m : Nat} (h : ∀ t, drive m s ≠ .next t) (n : Nat) : drive (n + m) s = drive m s := by
  induction m generalizing s with
  | zero => exact absurd rfl (h s)
  | succ m ih =>
    have hs : ¬s.halted = true := fun hs => h s (drive_halted _ _ hs)
    rw [← Nat.add_assoc]
    cases ht : tick s with
    | next u =>
      simp only [drive, hs, ht] at h ⊢
      exact ih h
    | fault f | refused f => simp only [drive, hs, ht]

/-- Settles O60: the first part answers a next state, from which the second goes on, or the whole run stops in it. -/
theorem driveSplits : Obligations.DriveSplits := by
  intro m n s
  rw [Nat.add_comm]
  cases h : drive m s with
  | next t => exact drive_add h n
  | fault f | refused f => rw [drive_add_of_stops (by simp [h]), h]

end Sys2Proof.Machine
end

section
/-! PROOFS of the family of reset and hazards (spec 70_reset_and_hazards.md): the block after reset accepts a command,
waits while none is presented, and an edge of the ready line is held back by the mode. -/

namespace Sys2Proof.Machine

/-! ### The block after reset (R160) -/

/-- Nothing is pending or scheduled after reset, nothing is in flight, and the block is not faulted. -/
theorem accepting_resetWith (c : Cfg) : (State.resetWith c).accepting :=
  ⟨rfl, rfl, rfl, rfl, rfl⟩

/-- After reset the block waits: no boundary changes it and no request is presented (R160). -/
theorem step_resetWith (c : Cfg) : step (State.resetWith c) = .next (State.resetWith c) := by
  have hb : (State.resetWith c).boundary = State.resetWith c := State.boundary_quiet _ ⟨rfl, rfl⟩
  rw [step_waits rfl rfl (by rw [hb]; rfl) (by rw [hb]; rfl), hb]

/-- An edge after reset meets Standby, so the mode's guard holds it back (R101, R160). -/
theorem exec_onReadyEdge_resetWith (c : Cfg) : exec .onReadyEdge (State.resetWith c) = .next (State.resetWith c) :=
  (edgeGuardsHoldBack _ (accepting_resetWith c) rfl).1 nofun

/-- Settles O1: the table's fields are read off `State.resetWith`; that the block waits, and that an edge leaves it as
it is, are the step's equation for waiting and the mode's guard of ON_READY_EDGE. -/
theorem resetLeavesTheTable : Obligations.ResetLeavesTheTable :=
  fun c => ⟨rfl, rfl, rfl, rfl, rfl, rfl, rfl, rfl, rfl, rfl, rfl, rfl, fun _ => rfl, rfl, rfl, rfl, rfl, rfl,
    step_resetWith c, exec_onReadyEdge_resetWith c⟩

end Sys2Proof.Machine
end
